-- ==== Sys2Proof/Word.lean ====
section
/-! DEFINITION. Words, bytes and the raw words of the block's two input ports.

Bit 0 of a word is its least significant bit and every value is unsigned (R6).  Nothing here computes:
taking words apart stands in `Sys2Proof/Decode.lean`, where a repair may mend it.
-/

namespace Sys2Proof

/-- A word of the command, event, response and status ports: XLEN = 32 bits (R5). -/
abbrev Word := BitVec 32

/-- A cell of the Register Table: CELL_WIDTH = 8 bits (R5). -/
abbrev Byte := BitVec 8

/-- The clock source of a Bus Handle or of a Device Profile (R13, R15); its bit is in R72. -/
inductive ClockSource where
  /-- Core-derived, encoded 0. -/
  | core
  /-- Reference-derived, encoded 1. -/
  | ref
  deriving DecidableEq, Repr

/-- The five words a host presents at once on the command port (R60). -/
structure CommandWords where
  cmd  : Word
  arg0 : Word
  arg1 : Word
  arg2 : Word
  arg3 : Word
  deriving DecidableEq, Repr

/-- The three words presented at once on the event port (R67). -/
structure EventWords where
  evt   : Word
  earg0 : Word
  earg1 : Word
  deriving DecidableEq, Repr

/-- What the outside presents to the block: a command or an event, each on its own port (R67, R176). -/
inductive Input where
  | command (w : CommandWords)
  | event (w : EventWords)
  deriving DecidableEq, Repr

end Sys2Proof
end

