-- ==== Sys2Proof/Config.lean ====
section
/-! DEFINITION. What one implementation of the block fixes (the OPEN parameters of R5) and the free
values: what the spec leaves open and no proof may see.

The calibrator table CAL and SHORT_THRESHOLD, whose values the spec does give, stand as named constants
in `Sys2Proof/Machine/Operands.lean`.
-/

namespace Sys2Proof

/-- The OPEN parameters of R5 (U17), each stored less one so that its whole range, and nothing else,
can be written down: 1 ≤ N_PROF ≤ 256, 1 ≤ CS_WIDTH ≤ 32, 1 ≤ TABLE_MAX ≤ 2^32 - 1. -/
structure Params where
  nProfLess1    : Fin 256
  csWidthLess1  : Fin 32
  tableMaxLess1 : Fin 4294967295
  deriving DecidableEq, Repr

/-- N_PROF, the number of Device Profile slots (R5). -/
def Params.nProf (p : Params) : Nat := p.nProfLess1.val + 1

/-- CS_WIDTH, the number of chip-select pins (R5). -/
def Params.csWidth (p : Params) : Nat := p.csWidthLess1.val + 1

/-- TABLE_MAX, the capacity of the Register Table in cells (R5). -/
def Params.tableMax (p : Params) : Nat := p.tableMaxLess1.val + 1

/-- The parameters spec/95_test_vectors.md assumes: N_PROF = 4, CS_WIDTH = 4, TABLE_MAX = 256.
DESIGN CHOICE (log 2, unsafe): the spec leaves them OPEN; only `State.reset` uses these. -/
def Params.ofVectors : Params :=
  { nProfLess1 := 3, csWidthLess1 := 3, tableMaxLess1 := 255 }

/-- The word drawn at draw number `k` (`draw` of R7): no proof can see it. -/
opaque Config.freeWord : Nat → Word

/-- The byte drawn at draw number `k` (`draw byte` of R154, "any byte" of R151). -/
opaque Config.freeByte : Nat → Byte

/-- The bit drawn at draw number `k`. -/
opaque Config.freeBool : Nat → Bool

/-- The arbiter's choice at draw number `k`, among inputs presented together whose order the spec does
not fix (R176, U18). -/
opaque Config.arbiter : Nat → Nat

end Sys2Proof
end

