-- ==== Sys2Proof/Syntax.lean ====
section
/-! DEFINITION. The block's "instructions": the ten host commands of R62 and the nine events of R68,
one constructor for each row of spec/opcode_table.json, operands in the order of the ARG columns with
the CMD fields first (R63, R75).
-/

namespace Sys2Proof

/-- A decoded command (format H) or event (format E).  `slot` and `pin` are unsigned indexes of 0 to 255
(R60); that they fit their fields is `Instr.wf`. -/
inductive Instr where
  /-- CALC `src, divider, core_raw, ref_raw` (R80). -/
  | calcDelays (src : ClockSource) (divider coreRaw refRaw : Word)
  /-- BUSINIT `src, divider, idle, deassert` (R90). -/
  | busInit (src : ClockSource) (divider idle deassert : Word)
  /-- BIND `slot, pin, pol, pha, src, divider` (R91). -/
  | bind (slot pin : Nat) (pol pha : Bool) (src : ClockSource) (divider : Word)
  /-- SETDIV `slot, src, divider` (R94). -/
  | setDiv (slot : Nat) (src : ClockSource) (divider : Word)
  /-- UNBIND `slot` (R95). -/
  | unbind (slot : Nat)
  /-- DISPATCH `slot, rxreq, length, tx_base, rx_base, rx_cap` (R100). -/
  | dispatch (slot : Nat) (rxReq : Bool) (length txBase rxBase rxCapacity : Word)
  /-- PINIT `level, table_length, nulls, offset` (R120). -/
  | pInit (level : Bool) (tableLength nullCycles outputOffset : Word)
  /-- PUBLISH `address, length` (R152). -/
  | publish (address length : Word)
  /-- TWRITE `address, byte` (R150). -/
  | tWrite (address : Word) (byte : Byte)
  /-- TREAD `address` (R151). -/
  | tRead (address : Word)
  /-- E_CS `level` (R122). -/
  | eCs (level : Bool)
  /-- E_DATA (R131). -/
  | eData
  /-- E_DECODE W (R129). -/
  | eDecodeW
  /-- E_DECODE R (R129). -/
  | eDecodeR
  /-- E_DECODE RW (R129). -/
  | eDecodeRW
  /-- E_DONE `code` (R130). -/
  | eDone (code : Word)
  /-- E_REGWR `address, byte` (R153). -/
  | eRegWr (address : Word) (byte : Byte)
  /-- E_REGRD `address` (R154). -/
  | eRegRd (address : Word)
  /-- P_STATUS `status` (R109). -/
  | pStatus (status : Word)
  deriving DecidableEq, Repr

end Sys2Proof
end

