-- ==== Sys2Proof/Machine/State.lean ====
section
/-! DEFINITION. The state of the block as plain data (10_state.md, 20_memory.md), the value of each
element after reset (R34), and what a step can answer.

`State` has three parts.  The block's own state: `ctl` (controller role, section 2 of 10_state.md), `per`
(peripheral role, section 3), `flags` (R30) and `act` (R22).  The block's surroundings, which are no state
of the block (R12, R35, R44): `params`, the input ports `now` and `later`, and the buffer space `buf`.  The model's own: `draws`, the
counter of free values, and `out`, what the output ports carried in the last step (R66: "an output of the
step, not state").
-/

namespace Sys2Proof.Machine

/-! ## Memory -/

/-- Data by address or by index, the listed keys strictly rising; an unlisted key holds no value.
DESIGN CHOICE (log 9, safe): the spec gives banks and slots, not how a model lists them. -/
abbrev Sparse (α : Type) := List (Nat × α)

/-- A bank of the Register Table, or the buffer space: the cells that hold a value (R41: a cell that nothing
has written holds no value). -/
abbrev Memory := List Host.Cell

/-! ## Controller role -/

/-- Bus Handle BH (R13). -/
structure BusHandle where
  valid             : Bool
  clockSource       : ClockSource
  divider           : Word
  idleClockPattern  : Word
  csDeassertPattern : Word
  deriving DecidableEq, Repr

/-- The fields of a bound Device Profile slot (R15).  A free slot holds none of them. -/
structure Profile where
  csMask           : Word
  clockSource      : ClockSource
  divider          : Word
  clockPattern     : Word
  idleClockPattern : Word
  inputDelay       : Word
  inputDelayShort  : Word
  deriving DecidableEq, Repr

/-- Dispatcher sequencing state DSEQ (R17): D_IDLE = 0, D_WAIT = 1. -/
inductive DSeq where
  | idle
  | wait
  deriving DecidableEq, Repr

/-- LAT, the latched operands of the transfer in flight (R17). -/
structure Latch where
  length : Word
  rxReq  : Bool
  deriving DecidableEq, Repr

/-- The error codes of R160, by name. -/
inductive ErrorCode where
  | ok
  | invalidPin
  | lengthMismatch
  | busFault
  | malformedTransaction
  | illegalCommand
  | busy
  | badState
  | invalidSlot
  | invalidRange
  deriving DecidableEq, Repr

/-- XFER, the transfer result record (R18). -/
structure XferResult where
  err   : ErrorCode
  bytes : Word
  code  : Word
  seq   : Word
  deriving DecidableEq, Repr

/-- The state of the controller role.  `dp` lists the bound slots by index: DP[i].bound = 1 exactly when
`i` is listed (R15, R95: the other fields of a free slot hold no value). -/
structure Controller where
  bh      : BusHandle
  dp      : Sparse Profile
  dseq    : DSeq
  lat     : Latch
  xfer    : XferResult
  csLines : Word
  deriving DecidableEq, Repr

/-! ## Peripheral role -/

/-- Engine configuration PCFG (R23). -/
structure EngineConfig where
  valid          : Bool
  assertLevel    : Bool
  tableLength    : Word
  nullCycleCount : Word
  outputOffset   : Word
  deriving DecidableEq, Repr

/-- Transaction Engine State ST (R24). -/
inductive TxState where
  | idle
  | waitingForAddress
  | writing
  | reading
  | readingWriting
  deriving DecidableEq, Repr

/-- Edge-detection arming: ARM_CS_EN, ARM_CS_LEVEL, ARM_DATA_EN (R26). -/
structure Arming where
  csEn    : Bool
  csLevel : Bool
  dataEn  : Bool
  deriving DecidableEq, Repr

/-- The state of the peripheral role.  `cur` and `shd` are the banks CUR and SHD of R41. -/
structure Peripheral where
  pcfg           : EngineConfig
  st             : TxState
  csSeen         : Bool
  arm            : Arming
  session        : Bool
  malformedCount : Word
  primCode       : Word
  cur            : Memory
  shd            : Memory
  deriving DecidableEq, Repr

/-! ## Shared by the roles: FLAGS and the action stream -/

/-- FLAGS (R30), bits 0 to 3; bits 31:4 are reserved and read as zero (`Flags.word`).  P_STATUS sets one
(R109), so they stand outside both roles.  DEDUCED (log 11, safe). -/
structure Flags where
  evtIllegal    : Bool
  evtUnexpected : Bool
  tblRange      : Bool
  primErr       : Bool
  deriving DecidableEq, Repr

/-- The operands of A_SHORT and A_BURST: bit 0 of ACTW and P0 to P7, in the order of R71. -/
structure PrimitiveArgs where
  rxReq             : Bool
  txBase            : Word
  rxBase            : Word
  length            : Word
  delayShort        : Word
  delay             : Word
  clockPattern      : Word
  csDeassertPattern : Word
  idlePattern       : Word
  deriving DecidableEq, Repr

/-- An action of R70 with its operands; its record of words is `Action.record`. -/
inductive Action where
  | clkSrc (src : ClockSource)
  | div (divider : Word)
  | idleBegin
  | idleLatch (pattern : Word)
  | idleEnd
  | flush
  | cs (lines : Word)
  | short (args : PrimitiveArgs)
  | burst (args : PrimitiveArgs)
  | sStart (tableLength nullCycleCount outputOffset : Word)
  | sAbort
  deriving DecidableEq, Repr

/-! ## Ports -/

/-- One response on the response port: ERR, RES0, RES1 (R66). -/
structure Response where
  err  : ErrorCode
  res0 : Word
  res1 : Word
  deriving DecidableEq, Repr

/-- What the output ports carried in the last step: nothing, the response to a command (R66), or the reply
ERESP to E_REGRD (R67, R154).  DESIGN CHOICE (log 7, safe): R66 calls it no state. -/
inductive PortOutput where
  | quiet
  | response (r : Response)
  | eresp (b : Byte)
  deriving DecidableEq, Repr

/-- What the outside drives at one moment: the reset input RST (R190), the two raw divider ports (R12) and
the commands and events presented together (R176).  DESIGN CHOICE (log 1, safe): the block fetches nothing
(R11), so its inputs are held in the state and a step takes one. -/
structure Moment where
  rst        : Bool
  coreDivRaw : Word
  refDivRaw  : Word
  presented  : List Input
  deriving DecidableEq, Repr

/-- What the outside goes on to: the bytes that have been stored in the buffer space by then, by the host or
by a primitive whose transfer a reset has ended, the last one last, and what is driven from then on.
DESIGN CHOICE (log 18, unsafe): BUF is external (R44), so its other writers are inputs. -/
structure Arrival where
  stored : List (Word × Byte)
  moment : Moment
  deriving DecidableEq, Repr

/-! ## The buffer space -/

/-- The external buffer space BUF as far as the model knows it (R40, R44): the cells whose byte is known, and
the rx buffer of the transfer in flight: `rxBase`, which the bit-transfer primitive was handed (P1 of R71) and
where it puts what it receives, and `rxCapacity`, its size as the DISPATCH gave it (R100, R101), up to which
U8 leaves its bytes open.  None is state of the block (R35).  DESIGN CHOICE (log 18, unsafe): the form. -/
structure BufferSpace where
  rxBase     : Word
  rxCapacity : Word
  cells      : Memory
  deriving DecidableEq, Repr

/-! ## The state -/

/-- The state of the block, its surroundings and the model's own counters. -/
structure State where
  params : Params
  ctl    : Controller
  per    : Peripheral
  flags  : Flags
  act    : List Action
  now    : Moment
  later  : List Arrival
  buf    : BufferSpace
  draws  : Nat
  out    : PortOutput
  deriving DecidableEq, Repr

/-- Faults: none.  The spec stops the block nowhere: a refused command gets a response and changes
nothing (R170), a reserved event sets a flag (R69), a wait lasts (R185).  No step raises one, so the type
has no constructor.  DEDUCED (log 13, safe). -/
inductive Fault where
  deriving DecidableEq, Repr

/-- Refusals of the model (not of the block: those are responses, R170). -/
inductive Refusal where
  /-- Raised only by an arm of `exec` whose instruction has no meaning yet; safe.  No arm raises it. -/
  | notModelled (mnemonic : String)
  deriving DecidableEq, Repr

/-- What a meaning answers. -/
abbrev Result := Host.Outcome State Fault Refusal

/-! ## Reset -/

/-- The drawn clock source of draw number `k`. -/
def freeSource (k : Nat) : ClockSource := if Config.freeBool k then .ref else .core

/-- The state after a reset (R34, R190), given the parameters, the ports, the buffer space and the number `k`
of the first draw.  What R34 calls unspecified is drawn: numbers `k` to `k + 12`.  DESIGN CHOICE (log 3, unsafe). -/
def State.resetAt (p : Params) (now : Moment) (later : List Arrival) (buf : BufferSpace) (k : Nat) : State :=
  { params := p
    ctl :=
      { bh :=
          { valid := false
            clockSource := freeSource k
            divider := Config.freeWord (k + 1)
            idleClockPattern := Config.freeWord (k + 2)
            csDeassertPattern := Config.freeWord (k + 3) }
        dp := []
        dseq := .idle
        lat := { length := Config.freeWord (k + 4), rxReq := Config.freeBool (k + 5) }
        xfer := { err := .ok, bytes := 0, code := 0, seq := 0 }
        csLines := Config.freeWord (k + 6) }
    per :=
      { pcfg :=
          { valid := false
            assertLevel := Config.freeBool (k + 7)
            tableLength := Config.freeWord (k + 8)
            nullCycleCount := Config.freeWord (k + 9)
            outputOffset := Config.freeWord (k + 10) }
        st := .idle
        csSeen := Config.freeBool (k + 11)
        arm := { csEn := false, csLevel := Config.freeBool (k + 12), dataEn := false }
        session := false
        malformedCount := 0
        primCode := 0
        cur := []
        shd := [] }
    flags := { evtIllegal := false, evtUnexpected := false, tblRange := false, primErr := false }
    act := []
    now := now
    later := later
    buf := buf
    draws := k + 13
    out := .quiet }

/-- A moment in which the outside presents nothing and both raw divider ports read 0.  DESIGN CHOICE
(log 4, unsafe): what the outside drives is no property of the block. -/
def Moment.silent : Moment := { rst := false, coreDivRaw := 0, refDivRaw := 0, presented := [] }

/-- A buffer space of which nothing is known, no primitive having been handed an rx buffer yet.  DESIGN CHOICE
(log 18, unsafe): the two 0. -/
def BufferSpace.unknown : BufferSpace := { rxBase := 0, rxCapacity := 0, cells := [] }

/-- The machine right after reset, with the parameters of spec/95_test_vectors.md (log 2) and nothing
presented. -/
def State.reset : State := State.resetAt Params.ofVectors Moment.silent [] BufferSpace.unknown 0

end Sys2Proof.Machine
end

