-- ==== Sys2Proof/Machine/Ops.lean ====
section
/-! DEFINITION. The shared operations: data by key, the draw, the response and the refusal (the block's
form of taking an exception, R170, R177), the action stream, the Register Table, the session of the
transaction engine.  Input ports and reset are in `Sys2Proof/Machine/Inputs.lean`.
-/

namespace Sys2Proof.Machine

/-! ## Data by key, in one canonical form -/

/-- The value at a key, `none` where the key holds no value. -/
def lookupKey {α : Type} : Sparse α → Nat → Option α
  | [], _ => none
  | (k, v) :: l, a => if k = a then some v else lookupKey l a

/-- The data with the value at one key set. -/
def setKey {α : Type} : Sparse α → Nat → α → Sparse α
  | [], a, v => [(a, v)]
  | (k, w) :: l, a, v =>
    if a < k then (a, v) :: (k, w) :: l
    else if a = k then (a, v) :: l
    else (k, w) :: setKey l a v

/-- The data with no value at one key. -/
def eraseKey {α : Type} (l : Sparse α) (a : Nat) : Sparse α := l.filter fun e => e.1 ≠ a

/-- The entries of keys from `lo` up to, not including, `hi`. -/
def slice {α : Type} (l : Sparse α) (lo hi : Nat) : Sparse α :=
  l.filter fun e => lo ≤ e.1 && e.1 < hi

/-- `dst` with the `n` keys from `lo` on taken from `src`, all at once: a key that holds no value in `src`
holds none afterwards. -/
def copyRange {α : Type} (src dst : Sparse α) (lo n : Nat) : Sparse α :=
  (dst.filter fun e => e.1 < lo) ++ slice src lo (lo + n) ++ dst.filter fun e => lo + n ≤ e.1

/-- The canonical form: the listed keys strictly rise. -/
def rising {α : Type} : Sparse α → Bool
  | [] => true
  | (k, _) :: l => l.all (fun e => k < e.1) && rising l

/-- Every listed key is below `n`. -/
def keysBelow {α : Type} (n : Nat) (l : Sparse α) : Bool := l.all fun e => e.1 < n

/-- The canonical form of a bank or of the buffer space.  An unlisted cell holds no value, so no listed entry equals what an
unlisted address reads as. -/
abbrev Memory.wf (m : Memory) : Bool := rising m

/-- What a cell of a bank holds: `none` for a cell that holds no value (R41).  Of the buffer space: `none`
for a byte that is not known. -/
abbrev Memory.read (m : Memory) (a : Nat) : Option Byte := lookupKey m a

/-! ## Outputs of a step -/

/-- `respond(err, res0, res1)` (R7, R66). -/
def State.respond (s : State) (err : ErrorCode) (res0 res1 : Word) : State :=
  { s with out := .response { err := err, res0 := res0, res1 := res1 } }

/-- `refuse E`: the response is (E, 0, 0) and no state element changes (R170).  This is how the block
takes every failure of a command: nothing is saved and no control transfers (R177), and the next command
is accepted as if the refused one had not been issued (R178). -/
def State.refuse (s : State) (e : ErrorCode) : State := s.respond e 0 0

/-- A step that drives no output port. -/
def State.quiet (s : State) : State := { s with out := .quiet }

/-- The reply of E_REGRD (R154). -/
def State.reply (s : State) (b : Byte) : State := { s with out := .eresp b }

/-- `emit A`: append an action to ACT (R7, R22). -/
def State.emit (s : State) (a : Action) : State := { s with act := s.act ++ [a] }

/-- `n` draws are used up. -/
def State.drawnBy (s : State) (n : Nat) : State := { s with draws := s.draws + n }

/-- One draw is used up (R7 `draw`). -/
def State.drawn (s : State) : State := s.drawnBy 1

/-- One check of a command: whether it fails, and the error it then reports. -/
abbrev Check := Bool × ErrorCode

/-- The error of the first check that fails (R174: "the first that applies is the one reported"). -/
def firstError : List Check → Option ErrorCode
  | [] => none
  | (failed, e) :: rest => if failed then some e else firstError rest

/-- A command with its checks, all made before its first write (R170): the refusal of the first that
fails, else the state `done`. -/
def State.accept (s : State) (checks : List Check) (done : State) : State :=
  match firstError checks with
  | some e => s.refuse e
  | none => done

/-! ## Parts of the state -/

/-- The state with the controller role's part replaced. -/
def State.setCtl (s : State) (c : Controller) : State := { s with ctl := c }

/-- The state with the peripheral role's part replaced. -/
def State.setPer (s : State) (p : Peripheral) : State := { s with per := p }

/-- The state with the buffer space replaced. -/
def State.setBuf (s : State) (b : BufferSpace) : State := { s with buf := b }

/-- The Device Profile of a bound slot. -/
def State.profile? (s : State) (slot : Nat) : Option Profile := lookupKey s.ctl.dp slot

/-- DP[slot].bound (R15). -/
def State.bound (s : State) (slot : Nat) : Bool := (s.profile? slot).isSome

/-- Write a Device Profile slot, which is bound afterwards. -/
def State.setProfile (s : State) (slot : Nat) (p : Profile) : State :=
  s.setCtl { s.ctl with dp := setKey s.ctl.dp slot p }

/-- Free a Device Profile slot: its fields hold no value (R95). -/
def State.freeProfile (s : State) (slot : Nat) : State :=
  s.setCtl { s.ctl with dp := eraseKey s.ctl.dp slot }

/-- Replace the Bus Handle. -/
def State.setBus (s : State) (b : BusHandle) : State := s.setCtl { s.ctl with bh := b }

/-! ## The Register Table (R41, R150 to R154) -/

/-- An address is in range when it is below PCFG.table_length (R42). -/
def State.inRange (s : State) (a : Word) : Bool := a.toNat < s.per.pcfg.tableLength.toNat

/-- `TblWrite(a, b)`: `SHD[a] <- b` (R7, R150). -/
def State.tblWrite (s : State) (a : Word) (b : Byte) : State :=
  s.setPer { s.per with shd := setKey s.per.shd a.toNat b }

/-- `CUR[a]`, or a free byte where the cell holds no value (R151, R154, U6: drawn afresh at each read).
DESIGN CHOICE (log 8, safe): the form of the draw. -/
def State.tblRead (s : State) (a : Word) : Byte :=
  (Memory.read s.per.cur a.toNat).getD (Config.freeByte s.draws)

/-- The state after a table read: it differs only by the draw used up where the cell holds no value. -/
def State.afterTblRead (s : State) (a : Word) : State :=
  if (Memory.read s.per.cur a.toNat).isSome then s else s.drawn

/-- `CUR[a] <- SHD[a]` for every `a` of the range, all at once (R152). -/
def State.publishRange (s : State) (a n : Word) : State :=
  s.setPer { s.per with cur := copyRange s.per.shd s.per.cur a.toNat n.toNat }

/-! ## The buffer space (R43, R44) -/

/-- Where byte `k` of a buffer stands: BUF is flat with 32-bit addresses, unchecked, and an address past the
last wraps (R40, R43, D44).  DEDUCED (log 18, unsafe): that it wraps to 0. -/
def bufferAddress (base : Word) (k : Nat) : Nat := (base + BitVec.ofNat 32 k).toNat

/-- `MemWrite` of one byte after the other, the last one last. -/
def storeBytes : List (Word × Byte) → Memory → Memory
  | [], m => m
  | (a, b) :: writes, m => storeBytes writes (setKey m a.toNat b)

/-- What a primitive has done to the `n` cells of an rx buffer from `base` on when its completion arrives:
the first `sure` of them are written (R44); each of the others holds any value (R44, U8): it is written, or is
as it was, by a free choice.  The bytes and the choices are drawn from draw number `k` on. -/
def receiveBytes (sure : Nat) (base : Word) (k : Nat) : Nat → Memory → Memory
  | 0, m => m
  | n + 1, m =>
    let before := receiveBytes sure base k n m
    if decide (n < sure) || Config.freeBool (k + n) then
      setKey before (bufferAddress base n) (Config.freeByte (k + n))
    else before

/-! ## The session of the transaction engine (R123 to R132) -/

/-- S_START with the configured operands (R132). -/
def State.emitStart (s : State) : State :=
  s.emit (.sStart s.per.pcfg.tableLength s.per.pcfg.nullCycleCount s.per.pcfg.outputOffset)

/-- The peripheral state of an open session in WaitingForAddress, armed for the level opposite to the one
seen and for data-line activity (R123, R126, R128). -/
def Peripheral.opened (p : Peripheral) (level : Bool) : Peripheral :=
  { p with
    csSeen := level
    arm := { csEn := true, csLevel := !level, dataEn := true }
    session := true
    st := .waitingForAddress }

/-- The peripheral state back in Idle, armed for the next assertion (R125, R127, R130). -/
def Peripheral.closed (p : Peripheral) : Peripheral :=
  { p with
    session := false
    arm := { csEn := true, csLevel := p.pcfg.assertLevel, dataEn := false }
    st := .idle }

/-- Start of a session by an assertion in Idle (R123). -/
def State.startSession (s : State) (level : Bool) : State :=
  (s.setPer (s.per.opened level)).emitStart

/-- End of a session by a deassertion (R125, R127): the session is discarded. -/
def State.truncateSession (s : State) (level : Bool) : State :=
  (s.setPer { s.per.closed with csSeen := level }).emit .sAbort

/-- End of a session by the primitive's completion (R130). -/
def State.completeSession (s : State) : State := s.setPer s.per.closed

end Sys2Proof.Machine
end

