-- ==== Sys2Proof/Machine/Operands.lean ====
section
/-! DEFINITION. What a command makes of its operands: the Timing Calibrator (40_calibrator.md), the pattern
table and the chip-select mask of BIND (R92, R93), the choice and the arguments of the bit-transfer
primitive (R106, R107), and the checks of the commands in their order (R174).
-/

namespace Sys2Proof.Machine

/-! ## The Timing Calibrator -/

/-- A pair (input_delay, input_delay_short). -/
structure Delays where
  delay      : Word
  delayShort : Word
  deriving DecidableEq, Repr

/-- The configuration table CAL (R5, R82): two thresholds on the ratio for each clock source and three
pairs of delays. -/
structure CalTable where
  refLow   : Nat
  refHigh  : Nat
  coreLow  : Nat
  coreHigh : Nat
  near     : Delays
  middle   : Delays
  far      : Delays
  deriving DecidableEq, Repr

/-- The values of CAL, copied from R82.  UNVERIFIED (log 15, unsafe): their source is unaudited (U1). -/
def calTable : CalTable :=
  { refLow := 3, refHigh := 13, coreLow := 4, coreHigh := 8
    near := { delay := 34, delayShort := 18 }
    middle := { delay := 33, delayShort := 17 }
    far := { delay := 32, delayShort := 16 } }

/-- Strict comparisons, tried top to bottom (R82). -/
def bracket (t : CalTable) (low high ratio : Nat) : Delays :=
  if ratio < low then t.near else if ratio < high then t.middle else t.far

/-- The threshold table (R82). -/
def lookupDelays (src : ClockSource) (ratio : Nat) : Delays :=
  match src with
  | .ref => bracket calTable calTable.refLow calTable.refHigh ratio
  | .core => bracket calTable calTable.coreLow calTable.coreHigh ratio

/-- The ratio of R81, on natural numbers without wrap-around (R83). -/
def calRatio (src : ClockSource) (divider coreRaw refRaw : Word) : Nat :=
  let coreDiv := coreRaw.toNat + 1
  let refDiv := refRaw.toNat + 1
  let scaled := match src with
    | .ref => refDiv * (divider.toNat + 1)
    | .core => coreDiv * (divider.toNat + 1)
  scaled / coreDiv

/-- `compute_delays(clock_source, divider, core_divider_raw, reference_divider_raw)` (R81). -/
def computeDelays (src : ClockSource) (divider coreRaw refRaw : Word) : Delays :=
  lookupDelays src (calRatio src divider coreRaw refRaw)

/-- `compute_delays` on the two raw divider ports, sampled in this step (R12, R87). -/
def State.sampledDelays (s : State) (src : ClockSource) (divider : Word) : Delays :=
  computeDelays src divider s.now.coreDivRaw s.now.refDivRaw

/-! ## Tables of BIND -/

/-- The all-ones word. -/
def allOnes : Word := 0xFFFFFFFF

/-- clock_pattern of the pattern table (R92).  UNVERIFIED (log 15, unsafe): an unaudited literal (U1). -/
def clockPattern (pol pha : Bool) : Word :=
  match pol, pha with
  | false, false => 0xAAAAAAAA
  | false, true => 0x55555555
  | true, false => 0x55555555
  | true, true => 0xAAAAAAAA

/-- idle_clock_pattern of the pattern table (R92). -/
def idlePattern (pol : Bool) : Word := if pol then 0xFFFFFFFF else 0x00000000

/-- The chip-select mask of a pin: the pin's bit, complemented on 32 bits when the bus's deassertion
pattern is the all-ones word (R93). -/
def csMask (deassert : Word) (pin : Nat) : Word :=
  let bit : Word := 1 <<< pin
  if deassert = allOnes then ~~~bit else bit

/-! ## The bit-transfer primitive of DISPATCH -/

/-- SHORT_THRESHOLD, "a tunable constant" (R5, R106).  UNVERIFIED (log 15, unsafe). -/
def shortThreshold : Nat := 5

/-- The arguments of the primitive (R71, R107). -/
def primitiveArgs (p : Profile) (deassert : Word) (rxReq : Bool) (length txBase rxBase : Word) :
    PrimitiveArgs :=
  { rxReq := rxReq, txBase := txBase, rxBase := rxBase, length := length
    delayShort := p.inputDelayShort, delay := p.inputDelay, clockPattern := p.clockPattern
    csDeassertPattern := deassert, idlePattern := p.idleClockPattern }

/-- The invocation of the primitive: short below the threshold, burst from it on (R106). -/
def invocation (a : PrimitiveArgs) : Action :=
  if a.length.toNat < shortThreshold then .short a else .burst a

/-! ## Checks (R174: Busy, BadState, InvalidSlot, then the command's own) -/

/-- Busy: a controller-role command while DSEQ = D_WAIT (R166). -/
def State.checkBusy (s : State) : Check := (s.ctl.dseq == .wait, .busy)

/-- BadState of a controller-role command that needs the Bus Handle (R167). -/
def State.checkBus (s : State) : Check := (!s.ctl.bh.valid, .badState)

/-- InvalidSlot: SLOT >= N_PROF (R168). -/
def State.checkSlot (s : State) (slot : Nat) : Check := (decide (s.params.nProf ≤ slot), .invalidSlot)

/-- InvalidSlot: the slot is bound already (R91). -/
def State.checkFree (s : State) (slot : Nat) : Check := (s.bound slot, .invalidSlot)

/-- InvalidPin: PIN >= CS_WIDTH (R161). -/
def State.checkPin (s : State) (pin : Nat) : Check := (decide (s.params.csWidth ≤ pin), .invalidPin)

/-- LengthMismatch: an rx buffer is requested and its capacity is below the length (R162). -/
def checkCapacity (rxReq : Bool) (length rxCapacity : Word) : Check :=
  (rxReq && decide (rxCapacity.toNat < length.toNat), .lengthMismatch)

/-- BadState of a table command before PINIT (R167). -/
def State.checkConfigured (s : State) : Check := (!s.per.pcfg.valid, .badState)

/-- InvalidRange: the address is outside the table (R169). -/
def State.checkAddress (s : State) (a : Word) : Check := (!s.inRange a, .invalidRange)

/-- InvalidRange: the range is not wholly inside the table; the sum is on naturals (R152). -/
def State.checkRange (s : State) (a n : Word) : Check :=
  (decide (s.per.pcfg.tableLength.toNat < a.toNat + n.toNat), .invalidRange)

/-- BadState of PINIT: a session is open (R120). -/
def State.checkIdle (s : State) : Check := (s.per.st != .idle, .badState)

/-- InvalidRange of PINIT: table_length > TABLE_MAX (R120). -/
def State.checkTableMax (s : State) (n : Word) : Check :=
  (decide (s.params.tableMax < n.toNat), .invalidRange)

/-- A command on a bound slot (SETDIV, UNBIND, DISPATCH): Busy, BadState and InvalidSlot are checked in this
order, a free slot being the last InvalidSlot (R94, R95, R101), and then the command goes on with the
profile of the slot. -/
def State.acceptBound (s : State) (slot : Nat) (body : Profile → State) : State :=
  s.accept [s.checkBusy, s.checkBus, s.checkSlot slot]
    (match s.profile? slot with
      | none => s.refuse .invalidSlot
      | some p => body p)

/-! ## The kind of a classified transaction -/

/-- The kind of R74 (kind 0 is a reserved encoding). -/
inductive Kind where
  | write
  | read
  | readWrite
  deriving DecidableEq, Repr

/-- The encoding of a kind (R74). -/
def Kind.code : Kind → BitVec 2
  | .write => 1
  | .read => 2
  | .readWrite => 3

/-- The data state of a kind: code 1 + kind (R73, R129). -/
def Kind.state : Kind → TxState
  | .write => .writing
  | .read => .reading
  | .readWrite => .readingWriting

/-- Bus writes are admitted in Writing and ReadingWriting (R153). -/
def TxState.admitsWrite : TxState → Bool
  | .idle => false
  | .waitingForAddress => false
  | .writing => true
  | .reading => false
  | .readingWriting => true

/-- Bus reads are admitted in Reading and ReadingWriting (R154). -/
def TxState.admitsRead : TxState → Bool
  | .idle => false
  | .waitingForAddress => false
  | .writing => false
  | .reading => true
  | .readingWriting => true

end Sys2Proof.Machine
end

