-- ==== Sys2Proof/Machine/Calibrator.lean ====
section
/-! DEFINITION. CALC, the command that exposes the Timing Calibrator alone (R80). -/

namespace Sys2Proof.Machine

/-- CALC (R80): responds with the delays; reads DSEQ for the Busy check and writes no state. -/
def execCalc (src : ClockSource) (divider coreRaw refRaw : Word) (s : State) : Result :=
  let d := computeDelays src divider coreRaw refRaw
  .next (s.accept [s.checkBusy] (s.respond .ok d.delay d.delayShort))

end Sys2Proof.Machine
end

