-- ==== Sys2Proof/Machine/Flags.lean ====
section
/-! DEFINITION. FLAGS, MALFORMED_COUNT and PRIM_CODE: every status bit and counter of the peripheral role
that a rule sets (R29, R30, R31), and the numbers the enumerations are encoded by.

The sticky bits are set here and nowhere cleared: only reset clears them (R30, R190).
-/

namespace Sys2Proof.Machine

/-- FLAGS.EVT_ILLEGAL <- 1: a reserved event encoding arrived (R30, R69). -/
def State.flagIllegal (s : State) : State := { s with flags := { s.flags with evtIllegal := true } }

/-- FLAGS.EVT_UNEXPECTED <- 1: a well-formed event in a state that gives it no meaning (R30). -/
def State.flagUnexpected (s : State) : State :=
  { s with flags := { s.flags with evtUnexpected := true } }

/-- FLAGS.TBL_RANGE <- 1: a bus-side table access out of range (R30, R153, R154). -/
def State.flagRange (s : State) : State := { s with flags := { s.flags with tblRange := true } }

/-- FLAGS.PRIM_ERR <- 1 (R30, R130). -/
def State.flagPrimErr (s : State) : State := { s with flags := { s.flags with primErr := true } }

/-- A nonzero completion code is latched: FLAGS.PRIM_ERR <- 1, PRIM_CODE <- code; code 0 changes nothing
(R31, R130). -/
def State.latchCode (s : State) (code : Word) : State :=
  if code = 0 then s else (s.setPer { s.per with primCode := code }).flagPrimErr

/-- min(MALFORMED_COUNT + 1, 0xFFFFFFFF): the counter saturates (R29, R126, R128). -/
def saturatingIncrement (w : Word) : Word := if w = 0xFFFFFFFF then w else w + 1

/-- MALFORMED_COUNT goes up by one, saturating. -/
def State.countMalformed (s : State) : State :=
  s.setPer { s.per with malformedCount := saturatingIncrement s.per.malformedCount }

/-- MalformedTransaction: the one error of the peripheral role the block itself recovers from.  It is
counted, the session is discarded and a fresh one opened, and ST is WaitingForAddress, not Idle (R126,
R128, R164, R177; 90_conflicts.md C3). -/
def State.malformed (s : State) (level : Bool) : State :=
  ((s.countMalformed.setPer (s.countMalformed.per.opened level)).emit .sAbort).emitStart

/-- FLAGS as the word the status port carries: bits 31:4 read as zero (R30). -/
def Flags.word (f : Flags) : Word :=
  (if f.evtIllegal then 1 else 0) ||| (if f.evtUnexpected then 2 else 0) |||
    (if f.tblRange then 4 else 0) ||| (if f.primErr then 8 else 0)

/-- The code of an error, as ERR and XFER.err carry it (R160). -/
def ErrorCode.code : ErrorCode → BitVec 8
  | .ok => 0x00
  | .invalidPin => 0x01
  | .lengthMismatch => 0x02
  | .busFault => 0x03
  | .malformedTransaction => 0x04
  | .illegalCommand => 0x05
  | .busy => 0x06
  | .badState => 0x07
  | .invalidSlot => 0x08
  | .invalidRange => 0x09

/-- The encoding of ST (R73). -/
def TxState.code : TxState → BitVec 3
  | .idle => 0
  | .waitingForAddress => 1
  | .writing => 2
  | .reading => 3
  | .readingWriting => 4

/-- The encoding of DSEQ (R17). -/
def DSeq.code : DSeq → BitVec 1
  | .idle => 0
  | .wait => 1

end Sys2Proof.Machine
end

