-- ==== Sys2Proof/Machine/Engine.lean ====
section
/-! DEFINITION. The Register-Mapped Transaction Engine (43_engine.md): PINIT and the transition function of
R135 on E_CS, E_DATA, E_DECODE and E_DONE.
-/

namespace Sys2Proof.Machine

/-- The configuration PINIT writes, and the arming for the assertion level (R120). -/
def Peripheral.configured (p : Peripheral) (level : Bool) (tableLength nullCycles outputOffset : Word) :
    Peripheral :=
  { p with
    pcfg :=
      { valid := true, assertLevel := level, tableLength := tableLength
        nullCycleCount := nullCycles, outputOffset := outputOffset }
    arm := { csEn := true, csLevel := level, dataEn := false } }

/-- PINIT (R120): allowed whenever ST = Idle, never Busy. -/
def execPInit (level : Bool) (tableLength nullCycles outputOffset : Word) (s : State) : Result :=
  .next (s.accept [s.checkIdle, s.checkTableMax tableLength]
    ((s.setPer (s.per.configured level tableLength nullCycles outputOffset)).respond .ok 0 0))

/-- An edge to the assertion level (R123 in Idle, R126 in WaitingForAddress, R128 in a data state). -/
def State.selectAsserted (s : State) (level : Bool) : State :=
  match s.per.st with
  | .idle => s.startSession level
  | .waitingForAddress => s.malformed level
  | .writing => s.malformed level
  | .reading => s.malformed level
  | .readingWriting => s.malformed level

/-- An edge to the other level (R124 in Idle, R125 in WaitingForAddress, R127 in a data state). -/
def State.selectDeasserted (s : State) (level : Bool) : State :=
  match s.per.st with
  | .idle => s
  | .waitingForAddress => s.truncateSession level
  | .writing => s.truncateSession level
  | .reading => s.truncateSession level
  | .readingWriting => s.truncateSession level

/-- E_CS (R122): ignored without trace while the engine is unconfigured (R136).  Edges of both directions
are acted on whatever the arming says (90_conflicts.md C4). -/
def execECs (level : Bool) (s : State) : Result :=
  .next (if !s.per.pcfg.valid then s.quiet
    else if level = s.per.pcfg.assertLevel then (s.selectAsserted level).quiet
    else (s.selectDeasserted level).quiet)

/-- E_DATA (R131): changes no state in any state of ST and sets no flag. -/
def execEData (s : State) : Result := .next s.quiet

/-- The primitive has classified the transaction (R129). -/
def State.classify (s : State) (k : Kind) : State :=
  match s.per.st with
  | .waitingForAddress => s.setPer { s.per with st := k.state }
  | .idle => s.flagUnexpected
  | .writing => s.flagUnexpected
  | .reading => s.flagUnexpected
  | .readingWriting => s.flagUnexpected

/-- E_DECODE W (R129). -/
def execEDecodeW (s : State) : Result := .next (s.classify .write).quiet

/-- E_DECODE R (R129). -/
def execEDecodeR (s : State) : Result := .next (s.classify .read).quiet

/-- E_DECODE RW (R129). -/
def execEDecodeRW (s : State) : Result := .next (s.classify .readWrite).quiet

/-- E_DONE (R130): with no session open it is dropped with EVT_UNEXPECTED. -/
def execEDone (code : Word) (s : State) : Result :=
  .next (if s.per.session then (s.latchCode code).completeSession.quiet else s.flagUnexpected.quiet)

end Sys2Proof.Machine
end

