-- ==== Sys2Proof/Machine/Profile.lean ====
section
/-! DEFINITION. The Bus Handle and Device Profile operations (41_profile.md): BUSINIT, BIND, SETDIV,
UNBIND.  None of them emits an action, and none but BUSINIT writes the Bus Handle (R96).
-/

namespace Sys2Proof.Machine

/-- BUSINIT (R90): records what the hardware-resource setup applied; every chip-select is deasserted. -/
def execBusInit (src : ClockSource) (divider idle deassert : Word) (s : State) : Result :=
  let b : BusHandle :=
    { valid := true, clockSource := src, divider := divider, idleClockPattern := idle
      csDeassertPattern := deassert }
  .next (s.accept [s.checkBusy, (s.ctl.bh.valid, .badState)]
    ((s.setCtl { s.ctl with bh := b, csLines := deassert }).respond .ok 0 0))

/-- The profile BIND constructs (R91). -/
def State.newProfile (s : State) (pin : Nat) (pol pha : Bool) (src : ClockSource) (divider : Word) :
    Profile :=
  let d := s.sampledDelays src divider
  { csMask := csMask s.ctl.bh.csDeassertPattern pin
    clockSource := src
    divider := divider
    clockPattern := clockPattern pol pha
    idleClockPattern := idlePattern pol
    inputDelay := d.delay
    inputDelayShort := d.delayShort }

/-- BIND (R91). -/
def execBind (slot pin : Nat) (pol pha : Bool) (src : ClockSource) (divider : Word) (s : State) : Result :=
  let p := s.newProfile pin pol pha src divider
  .next (s.accept [s.checkBusy, s.checkBus, s.checkSlot slot, s.checkFree slot, s.checkPin pin]
    ((s.setProfile slot p).respond .ok p.inputDelay p.inputDelayShort))

/-- A profile with a new clock source, divider and the delays that follow (R94). -/
def Profile.retimed (p : Profile) (src : ClockSource) (divider : Word) (d : Delays) : Profile :=
  { p with
    clockSource := src
    divider := divider
    inputDelay := d.delay
    inputDelayShort := d.delayShort }

/-- SETDIV (R94): always re-runs the calibrator. -/
def execSetDiv (slot : Nat) (src : ClockSource) (divider : Word) (s : State) : Result :=
  let d := s.sampledDelays src divider
  .next (s.acceptBound slot fun p =>
    (s.setProfile slot (p.retimed src divider d)).respond .ok d.delay d.delayShort)

/-- UNBIND (R95): frees the slot and does nothing else. -/
def execUnbind (slot : Nat) (s : State) : Result :=
  .next (s.acceptBound slot fun _ => (s.freeProfile slot).respond .ok 0 0)

end Sys2Proof.Machine
end

