-- ==== Sys2Proof/Machine/Table.lean ====
section
/-! DEFINITION. The Register Table operations (44_table.md): TWRITE, TREAD, PUBLISH on the command port,
E_REGWR and E_REGRD on the event port.  Reads observe CUR, writes land in SHD, and PUBLISH is the only way
from the second to the first.
-/

namespace Sys2Proof.Machine

/-- TWRITE (R150). -/
def execTWrite (address : Word) (byte : Byte) (s : State) : Result :=
  .next (s.accept [s.checkConfigured, s.checkAddress address] ((s.tblWrite address byte).respond .ok 0 0))

/-- TREAD (R151): a cell that holds no value answers a free byte. -/
def execTRead (address : Word) (s : State) : Result :=
  .next (s.accept [s.checkConfigured, s.checkAddress address]
    ((s.afterTblRead address).respond .ok ((s.tblRead address).setWidth 32) 0))

/-- PUBLISH (R152): a range not wholly inside the table is refused whole. -/
def execPublish (address length : Word) (s : State) : Result :=
  .next (s.accept [s.checkConfigured, s.checkRange address length]
    ((s.publishRange address length).respond .ok 0 0))

/-- E_REGWR (R153): the phase check comes before the range check (R175). -/
def execERegWr (address : Word) (byte : Byte) (s : State) : Result :=
  .next (if !s.per.st.admitsWrite then s.flagUnexpected.quiet
    else if !s.inRange address then s.flagRange.quiet
    else (s.tblWrite address byte).quiet)

/-- E_REGRD (R154): the phase check comes before the range check (R175); the reply to a refused read is
a free byte. -/
def execERegRd (address : Word) (s : State) : Result :=
  .next (if !s.per.st.admitsRead then s.flagUnexpected.drawn.reply (Config.freeByte s.draws)
    else if !s.inRange address then s.flagRange.drawn.reply (Config.freeByte s.draws)
    else (s.afterTblRead address).reply (s.tblRead address))

end Sys2Proof.Machine
end

