-- ==== Sys2Proof/Machine/Transfer.lean ====
section
/-! DEFINITION. The Transfer Dispatcher (42_dispatch.md): DISPATCH and its completion event P_STATUS.

One DISPATCH performs steps 1 to 4 in one atomic step and leaves DSEQ = D_WAIT; one P_STATUS ends the wait.
-/

namespace Sys2Proof.Machine

/-- Reconciliation of the clock source (R102). -/
def State.reconcileSource (s : State) (src : ClockSource) : State :=
  if src = s.ctl.bh.clockSource then s
  else (s.emit (.clkSrc src)).setBus { s.ctl.bh with clockSource := src }

/-- Reconciliation of the divider (R102). -/
def State.reconcileDivider (s : State) (divider : Word) : State :=
  if divider = s.ctl.bh.divider then s
  else (s.emit (.div divider)).setBus { s.ctl.bh with divider := divider }

/-- The idle-pattern switch: reference timebase, latch, data clock restored, with nothing between (R103). -/
def State.idleSwitch (s : State) (pattern : Word) : State :=
  ((s.emit .idleBegin).emit (.idleLatch pattern)).emit .idleEnd

/-- Reconciliation of the idle pattern (R102). -/
def State.reconcileIdle (s : State) (pattern : Word) : State :=
  if pattern = s.ctl.bh.idleClockPattern then s
  else (s.idleSwitch pattern).setBus { s.ctl.bh with idleClockPattern := pattern }

/-- Step 1 of DISPATCH: the three comparisons, in the order the rule lists them (R102). -/
def State.reconcile (s : State) (p : Profile) : State :=
  ((s.reconcileSource p.clockSource).reconcileDivider p.divider).reconcileIdle p.idleClockPattern

/-- Step 3: the mask is driven on the chip-select lines (R105). -/
def State.driveSelect (s : State) (mask : Word) : State :=
  (s.emit (.cs mask)).setCtl { s.ctl with csLines := mask }

/-- Step 4: the primitive is invoked, and its arguments are from then on its own (R106, R107).  That State
holds the rx buffer of the transfer is a DESIGN CHOICE (log 18, unsafe). -/
def State.invoke (s : State) (args : PrimitiveArgs) (rxCapacity : Word) : State :=
  (s.emit (invocation args)).setBuf { s.buf with rxBase := args.rxBase, rxCapacity := rxCapacity }

/-- The wait after step 4: DSEQ and LAT (R108). -/
def State.beginWait (s : State) (length : Word) (rxReq : Bool) : State :=
  s.setCtl { s.ctl with dseq := .wait, lat := { length := length, rxReq := rxReq } }

/-- DISPATCH (R100): admission (R101), then reconciliation, flush, chip-select, primitive, wait. -/
def execDispatch (slot : Nat) (rxReq : Bool) (length txBase rxBase rxCapacity : Word) (s : State) : Result :=
  .next (s.acceptBound slot fun p =>
    s.accept [checkCapacity rxReq length rxCapacity]
      (let s1 := s.reconcile p
       let s3 := (s1.emit .flush).driveSelect p.csMask
       let args := primitiveArgs p s3.ctl.bh.csDeassertPattern rxReq length txBase rxBase
       ((s3.invoke args rxCapacity).beginWait length rxReq).respond .ok 0 0))

/-- The result of a transfer (R109, R163): BusFault for a nonzero status, which is handed on verbatim. -/
def XferResult.completed (x : XferResult) (lat : Latch) (status : Word) : XferResult :=
  { err := if status = 0 then .ok else .busFault
    bytes := if status = 0 then lat.length else 0
    code := status
    seq := x.seq + 1 }

/-- How many bytes a transfer delivers: LAT.length, and none that is known of with a nonzero status (R44). -/
def deliveredBytes (lat : Latch) (status : Word) : Nat := if status = 0 then lat.length.toNat else 0

/-- How many bytes the rx buffer of the transfer has: its capacity, which is at least LAT.length (R101); none
when none was requested. -/
def BufferSpace.rxSize (b : BufferSpace) (lat : Latch) : Nat :=
  if lat.rxReq then max lat.length.toNat b.rxCapacity.toNat else 0

/-- What has become of the rx buffer when the completion arrives: the bytes delivered stand in it (R44), and
every other byte of it, those from LAT.length to its capacity, all of it after a BusFault and all of it after
a transfer of length 0, holds any value (U8).  The draws are from number `k` on.  The reads of the tx buffer
change nothing, and nothing outside the rx buffer changes.  DESIGN CHOICE (log 18, unsafe). -/
def BufferSpace.received (b : BufferSpace) (lat : Latch) (status : Word) (k : Nat) : BufferSpace :=
  { b with cells := receiveBytes (deliveredBytes lat status) b.rxBase k (b.rxSize lat) b.cells }

/-- The end of the wait (R109).  LAT is "valid only while DSEQ = D_WAIT" and P_STATUS is one of its writers
(R17): what it holds from here on is any value (U9), drawn.  DESIGN CHOICE (log 12, safe).  The rx buffer is
as the primitive leaves it (R44, U8, log 18). -/
def State.endWait (s : State) (status : Word) : State :=
  ((s.setCtl { s.ctl with
    xfer := s.ctl.xfer.completed s.ctl.lat status
    csLines := s.ctl.bh.csDeassertPattern
    dseq := .idle
    lat := { length := Config.freeWord s.draws, rxReq := Config.freeBool (s.draws + 1) } }).setBuf
      (s.buf.received s.ctl.lat status (s.draws + 2))).drawnBy (2 + s.buf.rxSize s.ctl.lat)

/-- P_STATUS (R109): ends the wait, or is dropped with EVT_UNEXPECTED when none lasts. -/
def execPStatus (status : Word) (s : State) : Result :=
  .next (match s.ctl.dseq with
    | .idle => s.flagUnexpected.quiet
    | .wait => (s.endWait status).quiet)

end Sys2Proof.Machine
end

