-- ==== Sys2Proof/Machine/Dispatch.lean ====
section
/-! DEFINITION. The meaning of every command and event, one arm a constructor of `Instr`. -/

namespace Sys2Proof.Machine

open Sys2Proof

def exec (i : Instr) (s : State) : Host.Outcome State Fault Refusal :=
  match i with
  -- Timing Calibrator (40_calibrator.md)
  | .calcDelays src divider coreRaw refRaw => Sys2Proof.Machine.execCalc src divider coreRaw refRaw s
  -- Bus Handle and Device Profiles (41_profile.md)
  | .busInit src divider idle deassert => Sys2Proof.Machine.execBusInit src divider idle deassert s
  | .bind slot pin pol pha src divider => Sys2Proof.Machine.execBind slot pin pol pha src divider s
  | .setDiv slot src divider => Sys2Proof.Machine.execSetDiv slot src divider s
  | .unbind slot => Sys2Proof.Machine.execUnbind slot s
  -- Transfer Dispatcher (42_dispatch.md)
  | .dispatch slot rxReq length txBase rxBase rxCapacity => Sys2Proof.Machine.execDispatch slot rxReq length txBase rxBase rxCapacity s
  -- Transaction Engine (43_engine.md), Register Table (44_table.md)
  | .pInit level tableLength nullCycles outputOffset => Sys2Proof.Machine.execPInit level tableLength nullCycles outputOffset s
  | .publish address length => Sys2Proof.Machine.execPublish address length s
  | .tWrite address byte => Sys2Proof.Machine.execTWrite address byte s
  | .tRead address => Sys2Proof.Machine.execTRead address s
  -- Events
  | .eCs level => Sys2Proof.Machine.execECs level s
  | .eData => Sys2Proof.Machine.execEData s
  | .eDecodeW => Sys2Proof.Machine.execEDecodeW s
  | .eDecodeR => Sys2Proof.Machine.execEDecodeR s
  | .eDecodeRW => Sys2Proof.Machine.execEDecodeRW s
  | .eDone code => Sys2Proof.Machine.execEDone code s
  | .eRegWr address byte => Sys2Proof.Machine.execERegWr address byte s
  | .eRegRd address => Sys2Proof.Machine.execERegRd address s
  | .pStatus status => Sys2Proof.Machine.execPStatus status s

end Sys2Proof.Machine
end

