-- ==== Sys2Proof/WellFormed.lean ====
section
/-! DEFINITION. Which instructions have an encoding: the SLOT and PIN operands must fit their 8-bit
fields (R60, R64).  Every other operand has exactly the width of its field or ARG word by its type.
Whether a slot or a pin EXISTS is no matter of form: the block answers it (R160: InvalidSlot, InvalidPin).
-/

namespace Sys2Proof

/-- An index that fits the 8-bit field SLOT or PIN of a CMD word (R60). -/
def fitsField (n : Nat) : Bool := decide (n < 256)

/-- An instruction whose operands fit their fields. -/
def Instr.wf : Instr → Bool
  | .calcDelays _ _ _ _ => true
  | .busInit _ _ _ _ => true
  | .bind slot pin _ _ _ _ => fitsField slot && fitsField pin
  | .setDiv slot _ _ => fitsField slot
  | .unbind slot => fitsField slot
  | .dispatch slot _ _ _ _ _ => fitsField slot
  | .pInit _ _ _ _ => true
  | .publish _ _ => true
  | .tWrite _ _ => true
  | .tRead _ => true
  | .eCs _ => true
  | .eData => true
  | .eDecodeW => true
  | .eDecodeR => true
  | .eDecodeRW => true
  | .eDone _ => true
  | .eRegWr _ _ => true
  | .eRegRd _ => true
  | .pStatus _ => true

end Sys2Proof
end

