-- ==== Sys2Proof/Decode.lean ====
section
/-! DEFINITION. The encoding of commands and events (30_encoding.md): the decoder, total on every word
of either port, and after it the encoder, written from the same tables.

A word is decoded by the opcode map itself: it is the command or the event of a row when
`word &&& mask = match` (R62, R68); a word of no row is refused by name in `Sys2Proof/Machine/Step.lean`
(R65: IllegalCommand; R69: EVT_ILLEGAL).
-/

namespace Sys2Proof

/-! ## Fields of a CMD or EVT word (R60, R67) -/

/-- CMD[31:24], OPC. -/
def cmdOpc (w : Word) : Byte := w.extractLsb' 24 8

/-- CMD[23:16], SLOT, an unsigned index. -/
def cmdSlot (w : Word) : Nat := (w.extractLsb' 16 8).toNat

/-- CMD[15:8], PIN, an unsigned index. -/
def cmdPin (w : Word) : Nat := (w.extractLsb' 8 8).toNat

/-- CMD[7:4], RSV. -/
def cmdRsv (w : Word) : BitVec 4 := w.extractLsb' 4 4

/-- CMD[3], RXREQ. -/
def cmdRxReq (w : Word) : Bool := w.getLsbD 3

/-- CMD[2], POL. -/
def cmdPol (w : Word) : Bool := w.getLsbD 2

/-- CMD[1], PHA. -/
def cmdPha (w : Word) : Bool := w.getLsbD 1

/-- CMD[0], the bit of SRC, or LVL in PINIT. -/
def cmdBit0 (w : Word) : Bool := w.getLsbD 0

/-- The clock source a bit stands for (R72). -/
def ClockSource.ofBit (b : Bool) : ClockSource := if b then .ref else .core

/-- The bit of a clock source (R72). -/
def ClockSource.bit : ClockSource → Bool
  | .core => false
  | .ref => true

/-- CMD[0] as SRC. -/
def cmdSrc (w : Word) : ClockSource := ClockSource.ofBit (cmdBit0 w)

/-- Bits 7:0 of an ARG or EARG word, the byte operand of TWRITE and E_REGWR (R64, R68). -/
def argByte (w : Word) : Byte := w.setWidth 8

/-! ## The opcode map and the event map -/

/-- A row of the opcode map: the words `w` with `w &&& mask = value` are the command `build` makes of
them (R62). -/
structure CommandRow where
  mnemonic : String
  value    : Word
  mask     : Word
  build    : CommandWords → Instr

/-- The opcode map of R62, in its order. -/
def commandRows : List CommandRow :=
  [ { mnemonic := "CALC", value := 0x01000000, mask := 0xFFFFFFFE,
      build := fun c => .calcDelays (cmdSrc c.cmd) c.arg0 c.arg1 c.arg2 },
    { mnemonic := "BUSINIT", value := 0x10000000, mask := 0xFFFFFFFE,
      build := fun c => .busInit (cmdSrc c.cmd) c.arg0 c.arg1 c.arg2 },
    { mnemonic := "BIND", value := 0x11000000, mask := 0xFF0000F8,
      build := fun c =>
        .bind (cmdSlot c.cmd) (cmdPin c.cmd) (cmdPol c.cmd) (cmdPha c.cmd) (cmdSrc c.cmd) c.arg0 },
    { mnemonic := "SETDIV", value := 0x12000000, mask := 0xFF00FFFE,
      build := fun c => .setDiv (cmdSlot c.cmd) (cmdSrc c.cmd) c.arg0 },
    { mnemonic := "UNBIND", value := 0x13000000, mask := 0xFF00FFFF,
      build := fun c => .unbind (cmdSlot c.cmd) },
    { mnemonic := "DISPATCH", value := 0x14000000, mask := 0xFF00FFF7,
      build := fun c => .dispatch (cmdSlot c.cmd) (cmdRxReq c.cmd) c.arg0 c.arg1 c.arg2 c.arg3 },
    { mnemonic := "PINIT", value := 0x20000000, mask := 0xFFFFFFFE,
      build := fun c => .pInit (cmdBit0 c.cmd) c.arg0 c.arg1 c.arg2 },
    { mnemonic := "PUBLISH", value := 0x21000000, mask := 0xFFFFFFFF,
      build := fun c => .publish c.arg0 c.arg1 },
    { mnemonic := "TWRITE", value := 0x22000000, mask := 0xFFFFFFFF,
      build := fun c => .tWrite c.arg0 (argByte c.arg1) },
    { mnemonic := "TREAD", value := 0x23000000, mask := 0xFFFFFFFF,
      build := fun c => .tRead c.arg0 } ]

/-- A row of the event map (R68). -/
structure EventRow where
  mnemonic : String
  value    : Word
  mask     : Word
  build    : EventWords → Instr

/-- The event map of R68, in its order. -/
def eventRows : List EventRow :=
  [ { mnemonic := "E_CS", value := 0x90000000, mask := 0xFFFFFFFE,
      build := fun e => .eCs (e.evt.getLsbD 0) },
    { mnemonic := "E_DATA", value := 0xA0000000, mask := 0xFFFFFFFF, build := fun _ => .eData },
    { mnemonic := "E_DECODE.W", value := 0x30000001, mask := 0xFFFFFFFF, build := fun _ => .eDecodeW },
    { mnemonic := "E_DECODE.R", value := 0x30000002, mask := 0xFFFFFFFF, build := fun _ => .eDecodeR },
    { mnemonic := "E_DECODE.RW", value := 0x30000003, mask := 0xFFFFFFFF, build := fun _ => .eDecodeRW },
    { mnemonic := "E_DONE", value := 0x40000000, mask := 0xFFFFFFFF, build := fun e => .eDone e.earg0 },
    { mnemonic := "E_REGWR", value := 0x50000000, mask := 0xFFFFFFFF,
      build := fun e => .eRegWr e.earg0 (argByte e.earg1) },
    { mnemonic := "E_REGRD", value := 0x60000000, mask := 0xFFFFFFFF, build := fun e => .eRegRd e.earg0 },
    { mnemonic := "P_STATUS", value := 0x80000000, mask := 0xFFFFFFFF,
      build := fun e => .pStatus e.earg0 } ]

/-! ## The decoder -/

/-- The command of the words on the command port; `none` for a CMD word of no row (R65). -/
def decodeCommand (c : CommandWords) : Option Instr :=
  (commandRows.find? fun r => c.cmd &&& r.mask == r.value).map fun r => r.build c

/-- The event of the words on the event port; `none` for a reserved event encoding (R69). -/
def decodeEvent (e : EventWords) : Option Instr :=
  (eventRows.find? fun r => e.evt &&& r.mask == r.value).map fun r => r.build e

/-- The instruction of an input, decoded by the port it is presented on. -/
def decodeInput : Input → Option Instr
  | .command c => decodeCommand c
  | .event e => decodeEvent e

/-! ## The encoder -/

/-- An index at a bit position of a CMD word. -/
def fieldAt (n pos : Nat) : Word := BitVec.ofNat 32 n <<< pos

/-- One bit at a bit position of a CMD or EVT word. -/
def bitAt (b : Bool) (pos : Nat) : Word := fieldAt b.toNat pos

/-- The words of a command of the form `CMD ARG0 ARG1 ARG2 ARG3`; ARG words a command does not use are 0. -/
def commandInput (cmd : Word) (arg0 arg1 arg2 arg3 : Word := 0) : Input :=
  .command { cmd := cmd, arg0 := arg0, arg1 := arg1, arg2 := arg2, arg3 := arg3 }

/-- The words of an event of the form `EVT EARG0 EARG1`. -/
def eventInput (evt : Word) (earg0 earg1 : Word := 0) : Input :=
  .event { evt := evt, earg0 := earg0, earg1 := earg1 }

/-- The words of a well-formed instruction, from the encodings of R75. -/
def encode : Instr → Input
  | .calcDelays src divider coreRaw refRaw =>
      commandInput (0x01000000 ||| bitAt src.bit 0) divider coreRaw refRaw
  | .busInit src divider idle deassert =>
      commandInput (0x10000000 ||| bitAt src.bit 0) divider idle deassert
  | .bind slot pin pol pha src divider =>
      commandInput (0x11000000 ||| fieldAt slot 16 ||| fieldAt pin 8 ||| bitAt pol 2 |||
        bitAt pha 1 ||| bitAt src.bit 0) divider
  | .setDiv slot src divider =>
      commandInput (0x12000000 ||| fieldAt slot 16 ||| bitAt src.bit 0) divider
  | .unbind slot => commandInput (0x13000000 ||| fieldAt slot 16)
  | .dispatch slot rxReq length txBase rxBase rxCapacity =>
      commandInput (0x14000000 ||| fieldAt slot 16 ||| bitAt rxReq 3) length txBase rxBase rxCapacity
  | .pInit level tableLength nullCycles outputOffset =>
      commandInput (0x20000000 ||| bitAt level 0) tableLength nullCycles outputOffset
  | .publish address length => commandInput 0x21000000 address length
  | .tWrite address byte => commandInput 0x22000000 address (byte.setWidth 32)
  | .tRead address => commandInput 0x23000000 address
  | .eCs level => eventInput (0x90000000 ||| bitAt level 0)
  | .eData => eventInput 0xA0000000
  | .eDecodeW => eventInput 0x30000001
  | .eDecodeR => eventInput 0x30000002
  | .eDecodeRW => eventInput 0x30000003
  | .eDone code => eventInput 0x40000000 code
  | .eRegWr address byte => eventInput 0x50000000 address (byte.setWidth 32)
  | .eRegRd address => eventInput 0x60000000 address
  | .pStatus status => eventInput 0x80000000 status

/-- The first word of an input: CMD or EVT. -/
def Input.firstWord : Input → Word
  | .command c => c.cmd
  | .event e => e.evt

/-! ## Text forms that are more than one command (R76) -/

/-- `WRITE addr, b0, …, bn`: one TWRITE a byte, at rising addresses; `execScript` in
`Sys2Proof/Machine/Script.lean` issues them up to the first refusal.  An address past 2^32 - 1 would be 0
here and is never issued, 2^32 - 1 being out of every table.  DEDUCED (log 14, safe). -/
def pseudoWrite (address : Word) : List Byte → List Instr
  | [] => []
  | b :: bs => .tWrite address b :: pseudoWrite (address + 1) bs

/-- `READ addr`. -/
def pseudoRead (address : Word) : List Instr := [.tRead address]

/-- `RECAL slot, src, divider`: SETDIV with the slot's present clock source and divider. -/
def pseudoRecal (slot : Nat) (src : ClockSource) (divider : Word) : List Instr :=
  [.setDiv slot src divider]

/-! ## Words numbered as spec/opcode_table.json numbers them -/

/-- Word number `k` of a row's bits: bits 32k+31 to 32k of `w`, the bits at and above `nbits` read as 0. -/
def tableWord (nbits w k : Nat) : Word := BitVec.ofNat 32 (w % 2 ^ nbits / 2 ^ (32 * k))

/-- The input a row's bits stand for.  No EVT word of R68 has the value of a legal CMD word (R67), so the
first word tells the port; a word of neither map goes to the command port.  DESIGN CHOICE (log 16, safe). -/
def tableInput (nbits w : Nat) : Input :=
  let e : EventWords :=
    { evt := tableWord nbits w 0, earg0 := tableWord nbits w 1, earg1 := tableWord nbits w 2 }
  if (decodeEvent e).isSome then .event e
  else .command
    { cmd := tableWord nbits w 0, arg0 := tableWord nbits w 1, arg1 := tableWord nbits w 2,
      arg2 := tableWord nbits w 3, arg3 := tableWord nbits w 4 }

/-- The instruction the decoder reads from a row's bits (32-bit words; the first word holds bit 0). -/
def decodeTableWord (nbits w : Nat) : Option Instr := decodeInput (tableInput nbits w)

end Sys2Proof
end

