-- ==== Sys2Proof/Machine/Inputs.lean ====
section
/-! DEFINITION. The input ports: which of the inputs presented together the next step handles (R176), what
an undecodable input does (R65, R69), waiting (R185), and the reset input RST (R190).
-/

namespace Sys2Proof.Machine

/-! ## Inputs: which one the next step takes (R176) -/

/-- A chip-select edge of the peripheral link. -/
def isSelectEdge : Input → Bool
  | .command _ => false
  | .event e => match decodeEvent e with
    | some (.eCs _) => true
    | _ => false

/-- An event of the register-transaction primitive (R171). -/
def isPrimitiveEvent : Input → Bool
  | .command _ => false
  | .event e => match decodeEvent e with
    | some .eDecodeW => true
    | some .eDecodeR => true
    | some .eDecodeRW => true
    | some (.eDone _) => true
    | some (.eRegWr _ _) => true
    | some (.eRegRd _) => true
    | _ => false

/-- Every way to take one input out of a list, with what is left. -/
def picks : List Input → List (Input × List Input)
  | [] => []
  | i :: l => (i, l) :: (picks l).map fun q => (q.1, i :: q.2)

/-- The inputs the block may handle next: "an E_CS is handled before any event of the primitive presented
with it"; nothing else is fixed (R176). -/
def candidates (l : List Input) : List (Input × List Input) :=
  if l.any isSelectEdge then (picks l).filter fun q => !isPrimitiveEvent q.1 else picks l

/-- The state with one list of inputs left to handle at the present moment. -/
def State.withPresented (s : State) (l : List Input) : State :=
  { s with now := { s.now with presented := l } }

/-- The input the next step handles and the state without it.  Where more than one may come next the order
is free (R176, U18, D37): the choice is drawn.  DESIGN CHOICE (log 5, safe): the order of two inputs of one
source is free too. -/
def State.arbitrate (s : State) : Option (Input × State) :=
  match candidates s.now.presented with
  | [] => none
  | [q] => some (q.1, s.withPresented q.2)
  | q :: r :: rest =>
    let all := q :: r :: rest
    let chosen := all.getD (Config.arbiter s.draws % all.length) q
    some (chosen.1, s.drawn.withPresented chosen.2)

/-- Nothing is presented: the block waits (R185), and the outside goes on to what it drives next, having
stored in BUF what it stores (R44).
DESIGN CHOICE (log 6, safe): a wait is a step of the model, of no duration (R201). -/
def State.await (s : State) : State :=
  match s.later with
  | [] => s.quiet
  | a :: rest =>
    { s.quiet with
      now := a.moment
      later := rest
      buf := { s.buf with cells := storeBytes a.stored s.buf.cells } }

/-- An input of no row: a command is refused with IllegalCommand before every other check (R65, R165), an
event sets EVT_ILLEGAL and nothing else (R69). -/
def State.undecoded (s : State) : Input → State
  | .command _ => s.refuse .illegalCommand
  | .event _ => s.flagIllegal.quiet

/-- A moment with RST asserted: no input of it is accepted, and the block is as after reset (R190).
DESIGN CHOICE (log 10, unsafe): the inputs of that moment are lost, as nothing is latched (R173).  BUF is not
the block's, so it is as before (R44). -/
def State.takeReset (s : State) : State :=
  State.resetAt s.params { s.now with rst := false, presented := [] } s.later s.buf s.draws

end Sys2Proof.Machine
end

