-- ==== Sys2Proof/Machine/Step.lean ====
section
/-! DEFINITION. One step (R8).  The block has no program counter and fetches nothing (R11): what it runs is
what its ports present.  While RST is asserted it is reset (R190); else it handles one input of those
presented together (R176), by the meaning of its decoding or as an undecodable word (R65, R69); with nothing
presented it waits (R185, R197).
-/

namespace Sys2Proof.Machine

/-- Handle one input. -/
def State.handle (s : State) (i : Input) : Result :=
  match decodeInput i with
  | some instr => exec instr s
  | none => .next (s.undecoded i)

/-- One step of the machine. -/
def step (s : State) : Host.Outcome State Fault Refusal :=
  if s.now.rst then .next s.takeReset
  else match s.arbitrate with
    | none => .next s.await
    | some (i, rest) => rest.handle i

/-- The state with one input presented, alone and with RST released, so that the next step handles it. -/
def State.withInput (s : State) (i : Input) : State :=
  { s with now := { s.now with rst := false, presented := [i] } }

/-- `s` with the input that an opcode-table word stands for presented at the ports. -/
def State.withFetchWord (s : State) (nbits w : Nat) : State := s.withInput (tableInput nbits w)

end Sys2Proof.Machine
end

