-- ==== Sys2Proof/Machine/Script.lean ====
section
/-! DEFINITION. What the pseudo-operations of R76 do: each is a sequence of commands and nothing more, issued
one after the other, and the sequence of WRITE "stops at the first refusal".
-/

namespace Sys2Proof.Machine

/-- The response port of a step carries an error: the command was refused (R66, R170). -/
def State.wasRefused (t : State) : Bool :=
  match t.out with
  | .quiet => false
  | .response r => r.err != .ok
  | .eresp _ => false

/-- Commands issued one after the other, up to the first that is refused (R76). -/
def execScript : List Instr → State → Result
  | [], s => .next s
  | i :: is, s => match exec i s with
    | .next t => if t.wasRefused then .next t else execScript is t
    | .fault f => .fault f
    | .refused r => .refused r

/-- WRITE (R76). -/
def execWrite (address : Word) (bytes : List Byte) (s : State) : Result :=
  execScript (pseudoWrite address bytes) s

/-- READ (R76). -/
def execRead (address : Word) (s : State) : Result := execScript (pseudoRead address) s

/-- RECAL (R76). -/
def execRecal (slot : Nat) (src : ClockSource) (divider : Word) (s : State) : Result :=
  execScript (pseudoRecal slot src divider) s

end Sys2Proof.Machine
end

