-- ==== Sys2Proof/Machine/Status.lean ====
section
/-! DEFINITION. What the block shows without a step: the status port (R33), the outputs that are functions
of state (R20, R28), and the records of words its actions and responses are carried by (R66, R70, R71).
-/

namespace Sys2Proof.Machine

/-- BUSY (R20): DSEQ = D_WAIT. -/
def State.busy (s : State) : Bool := s.ctl.dseq == .wait

/-- PHASE_EXPECT (R28, R133): equals ST at all times. -/
def State.phaseExpect (s : State) : BitVec 3 := s.per.st.code

/-- The level outputs of the status port (R33), each as the port carries it. -/
structure StatusPort where
  busy           : Bool
  xferErr        : BitVec 8
  xferBytes      : Word
  xferCode       : Word
  xferSeq        : Word
  csLines        : Word
  bh             : BusHandle
  st             : BitVec 3
  csSeen         : Bool
  armCsEn        : Bool
  armCsLevel     : Bool
  armDataEn      : Bool
  session        : Bool
  phaseExpect    : BitVec 3
  malformedCount : Word
  flags          : Word
  primCode       : Word
  pcfg           : EngineConfig
  deriving DecidableEq, Repr

/-- Reading the status port is no step and changes nothing (R33, R48). -/
def State.statusPort (s : State) : StatusPort :=
  { busy := s.busy
    xferErr := s.ctl.xfer.err.code
    xferBytes := s.ctl.xfer.bytes
    xferCode := s.ctl.xfer.code
    xferSeq := s.ctl.xfer.seq
    csLines := s.ctl.csLines
    bh := s.ctl.bh
    st := s.per.st.code
    csSeen := s.per.csSeen
    armCsEn := s.per.arm.csEn
    armCsLevel := s.per.arm.csLevel
    armDataEn := s.per.arm.dataEn
    session := s.per.session
    phaseExpect := s.phaseExpect
    malformedCount := s.per.malformedCount
    flags := s.flags.word
    primCode := s.per.primCode
    pcfg := s.per.pcfg }

/-- ERR as the response port carries it (R66, R160). -/
def Response.errCode (r : Response) : BitVec 8 := r.err.code

/-- An action as an output record: ACTW and the payload words it has (R70). -/
structure ActionRecord where
  actw    : Word
  payload : List Word
  deriving DecidableEq, Repr

/-- ACTW: ACODE in bits 31:28, the one-bit operand in bit 0, the rest 0 (R70). -/
def actionWord (acode : BitVec 4) (bit : Bool) : Word :=
  (acode.setWidth 32 <<< 28) ||| (if bit then 1 else 0)

/-- P0 to P7 of A_SHORT and A_BURST (R71). -/
def PrimitiveArgs.payload (a : PrimitiveArgs) : List Word :=
  [a.txBase, a.rxBase, a.length, a.delayShort, a.delay, a.clockPattern, a.csDeassertPattern, a.idlePattern]

/-- The record of an action (R70). -/
def Action.record : Action → ActionRecord
  | .clkSrc src => { actw := actionWord 0x1 (src == .ref), payload := [] }
  | .div divider => { actw := actionWord 0x2 false, payload := [divider] }
  | .idleBegin => { actw := actionWord 0x3 false, payload := [] }
  | .idleLatch pattern => { actw := actionWord 0x4 false, payload := [pattern] }
  | .idleEnd => { actw := actionWord 0x5 false, payload := [] }
  | .flush => { actw := actionWord 0x6 false, payload := [] }
  | .cs lines => { actw := actionWord 0x7 false, payload := [lines] }
  | .short a => { actw := actionWord 0x8 a.rxReq, payload := a.payload }
  | .burst a => { actw := actionWord 0x9 a.rxReq, payload := a.payload }
  | .sStart tableLength nullCycleCount outputOffset =>
      { actw := actionWord 0xA false, payload := [tableLength, nullCycleCount, outputOffset] }
  | .sAbort => { actw := actionWord 0xB false, payload := [] }

end Sys2Proof.Machine
end

