-- ==== Sys2Proof/Safety.lean ====
section
/-! DEFINITION. What claims about the block are stated in: who issues what, what a step may leave alone, the
legal words of the command port by their fields, the invariant of every reachable state, and the duties of
the surroundings.
-/

namespace Sys2Proof.Machine

/-! ## Roles and formats (R62, R68, R184) -/

/-- The commands of the controller role: OPC 0x01 and 0x10 to 0x14 (R62). -/
def controllerCommand : Instr → Bool
  | .calcDelays _ _ _ _ => true
  | .busInit _ _ _ _ => true
  | .bind _ _ _ _ _ _ => true
  | .setDiv _ _ _ => true
  | .unbind _ => true
  | .dispatch _ _ _ _ _ _ => true
  | .pInit _ _ _ _ => false
  | .publish _ _ => false
  | .tWrite _ _ => false
  | .tRead _ => false
  | .eCs _ => false
  | .eData => false
  | .eDecodeW => false
  | .eDecodeR => false
  | .eDecodeRW => false
  | .eDone _ => false
  | .eRegWr _ _ => false
  | .eRegRd _ => false
  | .pStatus _ => false

/-- The commands of the peripheral role: OPC 0x20 to 0x23 (R62). -/
def peripheralCommand : Instr → Bool
  | .calcDelays _ _ _ _ => false
  | .busInit _ _ _ _ => false
  | .bind _ _ _ _ _ _ => false
  | .setDiv _ _ _ => false
  | .unbind _ => false
  | .dispatch _ _ _ _ _ _ => false
  | .pInit _ _ _ _ => true
  | .publish _ _ => true
  | .tWrite _ _ => true
  | .tRead _ => true
  | .eCs _ => false
  | .eData => false
  | .eDecodeW => false
  | .eDecodeR => false
  | .eDecodeRW => false
  | .eDone _ => false
  | .eRegWr _ _ => false
  | .eRegRd _ => false
  | .pStatus _ => false

/-- The bit-transfer primitive's completion event. -/
def isStatus : Instr → Bool
  | .calcDelays _ _ _ _ => false
  | .busInit _ _ _ _ => false
  | .bind _ _ _ _ _ _ => false
  | .setDiv _ _ _ => false
  | .unbind _ => false
  | .dispatch _ _ _ _ _ _ => false
  | .pInit _ _ _ _ => false
  | .publish _ _ => false
  | .tWrite _ _ => false
  | .tRead _ => false
  | .eCs _ => false
  | .eData => false
  | .eDecodeW => false
  | .eDecodeR => false
  | .eDecodeRW => false
  | .eDone _ => false
  | .eRegWr _ _ => false
  | .eRegRd _ => false
  | .pStatus _ => true

/-- The steps of the controller role: its commands and P_STATUS (R184). -/
def controllerStep (i : Instr) : Bool := controllerCommand i || isStatus i

/-! ## Legal CMD words by their fields (R60, R61, R62) -/

/-- RSV and RXREQ are 0. -/
def noRsvRxReq (w : Word) : Prop := cmdRsv w = 0 ∧ cmdRxReq w = false

/-- POL and PHA are 0. -/
def noPolPha (w : Word) : Prop := cmdPol w = false ∧ cmdPha w = false

/-- A CMD word whose OPC is listed and whose unused fields are 0: the reading of R61, field by field. -/
def LegalFields (w : Word) : Prop :=
  ((cmdOpc w = 0x01 ∨ cmdOpc w = 0x10 ∨ cmdOpc w = 0x20) ∧
      cmdSlot w = 0 ∧ cmdPin w = 0 ∧ noRsvRxReq w ∧ noPolPha w) ∨
    (cmdOpc w = 0x11 ∧ noRsvRxReq w) ∨
    (cmdOpc w = 0x12 ∧ cmdPin w = 0 ∧ noRsvRxReq w ∧ noPolPha w) ∨
    (cmdOpc w = 0x13 ∧ cmdPin w = 0 ∧ noRsvRxReq w ∧ noPolPha w ∧ cmdBit0 w = false) ∨
    (cmdOpc w = 0x14 ∧ cmdPin w = 0 ∧ cmdRsv w = 0 ∧ noPolPha w ∧ cmdBit0 w = false) ∨
    ((cmdOpc w = 0x21 ∨ cmdOpc w = 0x22 ∨ cmdOpc w = 0x23) ∧
      cmdSlot w = 0 ∧ cmdPin w = 0 ∧ noRsvRxReq w ∧ noPolPha w ∧ cmdBit0 w = false)

/-! ## What a step leaves alone -/

/-- The parameters and the input ports. -/
def KeepsPorts (s t : State) : Prop := t.params = s.params ∧ t.now = s.now ∧ t.later = s.later

/-- Every byte of the buffer space, and the rx buffer of the transfer. -/
def KeepsBuffers (s t : State) : Prop :=
  t.buf.rxBase = s.buf.rxBase ∧ t.buf.rxCapacity = s.buf.rxCapacity ∧
    ∀ a, Memory.read t.buf.cells a = Memory.read s.buf.cells a

/-- Everything outside the block. -/
def KeepsSurroundings (s t : State) : Prop := KeepsPorts s t ∧ KeepsBuffers s t

/-- The Bus Handle. -/
def KeepsBus (s t : State) : Prop := t.ctl.bh = s.ctl.bh

/-- Every Device Profile slot. -/
def KeepsSlots (s t : State) : Prop := ∀ i, t.profile? i = s.profile? i

/-- Every Device Profile slot but one. -/
def KeepsOtherSlots (slot : Nat) (s t : State) : Prop := ∀ i, i ≠ slot → t.profile? i = s.profile? i

/-- DSEQ, LAT and XFER. -/
def KeepsSequencing (s t : State) : Prop :=
  t.ctl.dseq = s.ctl.dseq ∧ t.ctl.lat = s.ctl.lat ∧ t.ctl.xfer = s.ctl.xfer

/-- DSEQ, LAT, XFER and CS_LINES. -/
def KeepsTransfer (s t : State) : Prop := KeepsSequencing s t ∧ t.ctl.csLines = s.ctl.csLines

/-- All the state of the controller role. -/
def KeepsController (s t : State) : Prop := KeepsBus s t ∧ KeepsSlots s t ∧ KeepsTransfer s t

/-- PCFG. -/
def KeepsConfiguration (s t : State) : Prop := t.per.pcfg = s.per.pcfg

/-- MALFORMED_COUNT and PRIM_CODE. -/
def KeepsCounters (s t : State) : Prop :=
  t.per.malformedCount = s.per.malformedCount ∧ t.per.primCode = s.per.primCode

/-- ST, CS_SEEN, the arming and SESSION. -/
def KeepsSession (s t : State) : Prop :=
  t.per.st = s.per.st ∧ t.per.csSeen = s.per.csSeen ∧ t.per.arm = s.per.arm ∧
    t.per.session = s.per.session

/-- Every cell of CUR. -/
def KeepsCur (s t : State) : Prop := ∀ a, Memory.read t.per.cur a = Memory.read s.per.cur a

/-- Every cell of SHD. -/
def KeepsShd (s t : State) : Prop := ∀ a, Memory.read t.per.shd a = Memory.read s.per.shd a

/-- Every cell of SHD but one. -/
def KeepsOtherShd (address : Nat) (s t : State) : Prop :=
  ∀ a, a ≠ address → Memory.read t.per.shd a = Memory.read s.per.shd a

/-- Every cell of both banks. -/
def KeepsBanks (s t : State) : Prop := KeepsCur s t ∧ KeepsShd s t

/-- All the state of the peripheral role but the banks. -/
def KeepsEngine (s t : State) : Prop :=
  KeepsConfiguration s t ∧ KeepsSession s t ∧ KeepsCounters s t

/-- All the state of the peripheral role. -/
def KeepsPeripheral (s t : State) : Prop := KeepsEngine s t ∧ KeepsBanks s t

/-- FLAGS and ACT. -/
def KeepsShared (s t : State) : Prop := t.flags = s.flags ∧ t.act = s.act

/-- Every state element of the block and its surroundings: a step that only drives an output port. -/
def KeepsAll (s t : State) : Prop :=
  KeepsSurroundings s t ∧ KeepsController s t ∧ KeepsPeripheral s t ∧ KeepsShared s t

/-- The response port carries (e, a, b). -/
def Responds (t : State) (e : ErrorCode) (a b : Word) : Prop :=
  t.out = .response { err := e, res0 := a, res1 := b }

/-- The state after a refusal: the response (e, 0, 0) and nothing else (R170). -/
def refused (s : State) (e : ErrorCode) : State :=
  { s with out := .response { err := e, res0 := 0, res1 := 0 } }

/-! ## The invariant of every reachable state -/

/-- The listed data have their canonical form (the model's own form of 20_memory.md R41). -/
def CanonicalData (s : State) : Prop :=
  rising s.ctl.dp = true ∧ Memory.wf s.per.cur = true ∧ Memory.wf s.per.shd = true ∧
    Memory.wf s.buf.cells = true

/-- Slots, cells and buffer bytes exist: slots are below N_PROF, cells below TABLE_MAX (R5, R42), and the
addresses of BUF have 32 bits (R40). -/
def KeysExist (s : State) : Prop :=
  keysBelow s.params.nProf s.ctl.dp = true ∧ keysBelow s.params.tableMax s.per.cur = true ∧
    keysBelow s.params.tableMax s.per.shd = true ∧ keysBelow (2 ^ 32) s.buf.cells = true

/-- A cell of CUR holds a value only where SHD does: a PUBLISH has copied it from there (R41). -/
def CurFromShd (s : State) : Prop :=
  ∀ a, (Memory.read s.per.cur a).isSome = true → (Memory.read s.per.shd a).isSome = true

/-- The invariants of R135 and R136, and PCFG.table_length <= TABLE_MAX (R23). -/
def EngineInvariant (s : State) : Prop :=
  (s.per.session = true ↔ s.per.st ≠ .idle) ∧
    s.per.arm.dataEn = s.per.session ∧
    (s.per.pcfg.valid = true →
      s.per.arm.csEn = true ∧
        (s.per.st = .idle → s.per.arm.csLevel = s.per.pcfg.assertLevel) ∧
        (s.per.st ≠ .idle → s.per.arm.csLevel = !s.per.pcfg.assertLevel) ∧
        s.per.pcfg.tableLength.toNat ≤ s.params.tableMax) ∧
    (s.per.pcfg.valid = false → s.per.st = .idle ∧ s.per.arm.csEn = false)

/-- A profile as BIND and SETDIV make it: its patterns are a row of the pattern table, its mask that of a
pin, its delays those of its clock source and divider for some raw dividers (R15, R16, R92, R93). -/
def ProfileInvariant (s : State) (p : Profile) : Prop :=
  (∃ pol pha, p.clockPattern = clockPattern pol pha ∧ p.idleClockPattern = idlePattern pol) ∧
    (∃ pin, pin < s.params.csWidth ∧ p.csMask = csMask s.ctl.bh.csDeassertPattern pin) ∧
    ∃ coreRaw refRaw,
      computeDelays p.clockSource p.divider coreRaw refRaw =
        { delay := p.inputDelay, delayShort := p.inputDelayShort }

/-- Every profile and every transfer has its Bus Handle (R14, R101), every profile is well made, with no
transfer in flight every chip-select is deasserted (R19, R90, R109), and the rx buffer of one in flight has
room for its bytes (R101). -/
def ControllerInvariant (s : State) : Prop :=
  (∀ i p, s.profile? i = some p → s.ctl.bh.valid = true ∧ ProfileInvariant s p) ∧
    (s.ctl.dseq = .wait → s.ctl.bh.valid = true) ∧
    (s.ctl.bh.valid = true → s.ctl.dseq = .idle → s.ctl.csLines = s.ctl.bh.csDeassertPattern) ∧
    (s.ctl.dseq = .wait → s.ctl.lat.rxReq = true →
      s.ctl.lat.length.toNat ≤ s.buf.rxCapacity.toNat)

/-- XFER and PRIM_CODE say what R18, R31 and R163 let them say. -/
def ResultInvariant (s : State) : Prop :=
  (s.ctl.xfer.err = .ok ∧ s.ctl.xfer.code = 0 ∨
      s.ctl.xfer.err = .busFault ∧ s.ctl.xfer.code ≠ 0 ∧ s.ctl.xfer.bytes = 0) ∧
    (s.flags.primErr = true ↔ s.per.primCode ≠ 0)

/-- The invariant of every reachable state. -/
def State.Inv (s : State) : Prop :=
  CanonicalData s ∧ KeysExist s ∧ CurFromShd s ∧ EngineInvariant s ∧ ControllerInvariant s ∧
    ResultInvariant s

/-! ## Duties of the surroundings (R180, R181) -/

/-- What the block assumes of the primitives and the link, in the state the input meets: a completion only
for a transfer in flight, a classification only in WaitingForAddress, a completion code only for an open
session, table accesses only in their phase and inside the table (R153, R154, R180, R181).  Commands are
the host's and are always answered. -/
def Expected (s : State) : Instr → Prop
  | .calcDelays _ _ _ _ => True
  | .busInit _ _ _ _ => True
  | .bind _ _ _ _ _ _ => True
  | .setDiv _ _ _ => True
  | .unbind _ => True
  | .dispatch _ _ _ _ _ _ => True
  | .pInit _ _ _ _ => True
  | .publish _ _ => True
  | .tWrite _ _ => True
  | .tRead _ => True
  | .eCs _ => True
  | .eData => True
  | .eDecodeW => s.per.st = .waitingForAddress
  | .eDecodeR => s.per.st = .waitingForAddress
  | .eDecodeRW => s.per.st = .waitingForAddress
  | .eDone _ => s.per.session = true
  | .eRegWr a _ =>
      (s.per.st = .writing ∨ s.per.st = .readingWriting) ∧ a.toNat < s.per.pcfg.tableLength.toNat
  | .eRegRd a =>
      (s.per.st = .reading ∨ s.per.st = .readingWriting) ∧ a.toNat < s.per.pcfg.tableLength.toNat
  | .pStatus _ => s.ctl.dseq = .wait

/-! ## Sequences of steps -/

/-- The meanings of a list of instructions, one after the other, up to the first stop. -/
def execAll : List Instr → State → Result
  | [], s => .next s
  | i :: is, s => match exec i s with
    | .next t => execAll is t
    | .fault f => .fault f
    | .refused r => .refused r

/-- A PUBLISH whose range covers an address (R50). -/
def publishes (a : Nat) (i : Instr) : Prop :=
  ∃ address length : Word,
    i = .publish address length ∧ address.toNat ≤ a ∧ a < address.toNat + length.toNat

/-- A reconfiguration action: one of clock-source select, divider set, and the three actions of an
idle-pattern switch (R102, R110). -/
def reconfigures : Action → Bool
  | .clkSrc _ => true
  | .div _ => true
  | .idleBegin => true
  | .idleLatch _ => true
  | .idleEnd => true
  | .flush => false
  | .cs _ => false
  | .short _ => false
  | .burst _ => false
  | .sStart _ _ _ => false
  | .sAbort => false

/-! ## Unspecified fields (R34) -/

/-- Two states that agree on everything the spec gives a value: a field R34 calls unspecified may differ
while it is, CS_SEEN, which no rule reads (R25), may always differ, and so may the rx buffer of the last
transfer when none is in flight. -/
def AgreeWhereSpecified (s t : State) : Prop :=
  t.params = s.params ∧ t.now = s.now ∧ t.later = s.later ∧ t.draws = s.draws ∧ t.out = s.out ∧
    t.buf.cells = s.buf.cells ∧ (s.ctl.dseq = .wait →
      t.buf.rxBase = s.buf.rxBase ∧ t.buf.rxCapacity = s.buf.rxCapacity) ∧
    t.flags = s.flags ∧ t.act = s.act ∧
    t.ctl.bh.valid = s.ctl.bh.valid ∧
    (s.ctl.bh.valid = true → t.ctl.bh = s.ctl.bh ∧ t.ctl.csLines = s.ctl.csLines) ∧
    t.ctl.dp = s.ctl.dp ∧ t.ctl.dseq = s.ctl.dseq ∧
    (s.ctl.dseq = .wait → t.ctl.lat = s.ctl.lat) ∧
    t.ctl.xfer = s.ctl.xfer ∧
    t.per.pcfg.valid = s.per.pcfg.valid ∧
    (s.per.pcfg.valid = true → t.per.pcfg = s.per.pcfg) ∧
    t.per.st = s.per.st ∧ t.per.session = s.per.session ∧
    t.per.arm.csEn = s.per.arm.csEn ∧ t.per.arm.dataEn = s.per.arm.dataEn ∧
    (s.per.arm.csEn = true → t.per.arm.csLevel = s.per.arm.csLevel) ∧
    t.per.malformedCount = s.per.malformedCount ∧ t.per.primCode = s.per.primCode ∧
    t.per.cur = s.per.cur ∧ t.per.shd = s.per.shd

end Sys2Proof.Machine
end

