-- ==== Sys2Proof/Certificates/Slice0/Obligations.lean ====
section
/-! DEFINITION. The statements for the provers, from the numbered rules of spec/.

They stand in the order of spec/: encoding, step and reset, calibrator, profiles, dispatcher, engine, table,
errors, and then the claims over every state.  `exec i s = .next t` with its frame says where an instruction
completes; no statement rests on the value of a free value.
-/

open Sys2Proof Sys2Proof.Machine

/-! ## Encoding -/

/-- Decoding the words of a well-formed instruction gives the instruction back, with every operand at every
value its field admits (R60 to R64, R68, R75). -/
def Obligations.DecodeOfEncodeIsTheInstruction : Prop :=
  ∀ i : Instr, i.wf = true → decodeInput (encode i) = some i

/-- Every decoded instruction is well formed, and its own encoding has the same first word: no bit of a CMD
or EVT word is read as nothing (R61, R62, R68). -/
def Obligations.DecodedInstructionEncodesToItsWord : Prop :=
  ∀ (inp : Input) (i : Instr), decodeInput inp = some i →
    i.wf = true ∧ (encode i).firstWord = inp.firstWord

/-- A CMD word is a command exactly when its OPC is listed and every field the command does not use is 0,
whatever the ARG words (R61, R62, R65). -/
def Obligations.CommandWordsAreLegalByTheirFields : Prop :=
  ∀ c : CommandWords, (decodeCommand c).isSome = true ↔ LegalFields c.cmd

/-- The EVT words that are events are the ten of R68 and no other (R69), and none of them has the value of a
legal CMD word (R67). -/
def Obligations.EventWordsAreTheTenListed : Prop :=
  (∀ e : EventWords, (decodeEvent e).isSome = true ↔
    e.evt ∈ ([0x90000000, 0x90000001, 0xA0000000, 0x30000001, 0x30000002, 0x30000003, 0x40000000,
      0x50000000, 0x60000000, 0x80000000] : List Word)) ∧
  ∀ (e : EventWords) (c : CommandWords), (decodeEvent e).isSome = true → e.evt = c.cmd →
    decodeCommand c = none

/-- Words written out from the encodings of R60, R67 and R75 decode to what they stand for (V6).  Which port
a table word is presented on, and that the ARG words it leaves out are 0 (the operands 0 here), is the model's
choice (log 16, DESIGN CHOICE). -/
def Obligations.WrittenOutWordsDecode : Prop :=
  decodeTableWord 32 0x01000001 = some (.calcDelays .ref 0 0 0) ∧
    decodeTableWord 32 0x11010107 = some (.bind 1 1 true true .ref 0) ∧
    decodeTableWord 32 0x14000008 = some (.dispatch 0 true 0 0 0 0) ∧
    decodeTableWord 32 0x20000001 = some (.pInit true 0 0 0) ∧
    decodeTableWord 32 0x22000000 = some (.tWrite 0 0) ∧
    decodeTableWord 32 0x90000001 = some (.eCs true) ∧
    decodeTableWord 32 0x30000003 = some .eDecodeRW ∧
    decodeTableWord 32 0x80000000 = some (.pStatus 0) ∧
    decodeTableWord 32 0x13000100 = none ∧
    decodeTableWord 32 0x90000002 = none

/-! ## A step; the input ports; reset -/

/-- A step with RST released runs the meaning of the input the arbiter hands it; one input presented alone
is the one handed, and the state it meets differs only by being rid of that input (R8; that the ports are
held in the state is the model's choice, log 1). -/
def Obligations.StepRunsTheDecodedInput : Prop :=
  (∀ (s r : State) (inp : Input) (i : Instr), s.now.rst = false → s.arbitrate = some (inp, r) →
    decodeInput inp = some i → step s = exec i r) ∧
  (∀ (s : State) (inp : Input) (i : Instr), s.now.rst = false → s.now.presented = [inp] →
    decodeInput inp = some i →
      step s = exec i { s with now := { s.now with presented := [] } })

/-- Of inputs presented together the arbiter always hands one over, whatever they are, keeps the others in
their order, and changes nothing else of the block or its ports (R8, R176; the form of the choice is the model's, log 5). -/
def Obligations.ArbiterTakesOneInput : Prop :=
  (∀ s : State, s.now.presented ≠ [] → ∃ inp r, s.arbitrate = some (inp, r)) ∧
  ∀ (s r : State) (inp : Input), s.arbitrate = some (inp, r) →
    (∃ before after, s.now.presented = before ++ inp :: after ∧ r.now.presented = before ++ after) ∧
      r.now.rst = s.now.rst ∧ r.now.coreDivRaw = s.now.coreDivRaw ∧ r.now.refDivRaw = s.now.refDivRaw ∧
      r.params = s.params ∧ r.ctl = s.ctl ∧ r.per = s.per ∧ r.flags = s.flags ∧ r.act = s.act ∧
      r.later = s.later ∧ r.buf = s.buf ∧ r.out = s.out

/-- A chip-select edge goes before every event of the register-transaction primitive presented with it
(R176: "an E_CS is handled before any event of the primitive presented with it"). -/
def Obligations.SelectEdgeGoesBeforePrimitiveEvents : Prop :=
  ∀ (s r : State) (inp : Input), s.arbitrate = some (inp, r) →
    (∃ e ∈ s.now.presented, isSelectEdge e = true) → isPrimitiveEvent inp = false

/-- A deassertion and a completion that coincide: whichever way they are presented together, the edge is
handled first, the session is aborted, and the completion then arrives with SESSION = 0 and only sets
EVT_UNEXPECTED (R176). -/
def Obligations.CoincidentEdgeWinsOverCompletion : Prop :=
  ∀ (s : State) (edge done : EventWords) (level : Bool) (code : Word), s.now.rst = false →
    decodeEvent edge = some (.eCs level) → decodeEvent done = some (.eDone code) →
    (s.now.presented = [.event edge, .event done] ∨ s.now.presented = [.event done, .event edge]) →
    s.per.pcfg.valid = true → level ≠ s.per.pcfg.assertLevel → s.per.st ≠ .idle →
      ∃ t u, step s = .next t ∧ step t = .next u ∧ t.per.st = .idle ∧ t.per.session = false ∧
        t.act = s.act ++ [.sAbort] ∧ t.flags = s.flags ∧ u.per = t.per ∧ u.act = t.act ∧
        u.flags = { s.flags with evtUnexpected := true } ∧ u.now.presented = []

/-- A CMD word of no row, whatever is presented beside it and whatever the state, a transfer in flight
included, is refused with IllegalCommand when the arbiter hands it over, and changes nothing else (R165; the
arbiter's form is log 5). -/
def Obligations.IllegalCommandIsRefusedFirst : Prop :=
  (∀ (s r : State) (c : CommandWords), s.now.rst = false → s.arbitrate = some (.command c, r) →
    decodeCommand c = none → step s = .next (refused r .illegalCommand)) ∧
  (∀ (s : State) (c : CommandWords), s.now.rst = false → s.now.presented = [.command c] →
    decodeCommand c = none →
      step s = .next (refused { s with now := { s.now with presented := [] } } .illegalCommand))

/-- The encodings R69 lists are reserved, and a reserved event, whatever is presented beside it, sets
FLAGS.EVT_ILLEGAL when the arbiter hands it over and changes nothing else; it has no response (the arbiter's
form is log 5). -/
def Obligations.ReservedEventSetsEvtIllegalOnly : Prop :=
  (∀ e : EventWords,
    (e.evt.extractLsb' 28 4 ∈ ([0x0, 0x1, 0x2, 0x7, 0xB, 0xC, 0xD, 0xE, 0xF] : List (BitVec 4)) ∨
      e.evt = 0x30000000 ∨ e.evt.extractLsb' 2 26 ≠ 0 ∨
      (e.evt.extractLsb' 28 4 = 0x9 ∧ e.evt.getLsbD 1 = true)) → decodeEvent e = none) ∧
  (∀ (s r : State) (e : EventWords), s.now.rst = false → s.arbitrate = some (.event e, r) →
    decodeEvent e = none →
      step s = .next { r with flags := { r.flags with evtIllegal := true }, out := .quiet }) ∧
  (∀ (s : State) (e : EventWords), s.now.rst = false → s.now.presented = [.event e] →
    decodeEvent e = none →
      step s = .next { s with
        now := { s.now with presented := [] }
        flags := { s.flags with evtIllegal := true }
        out := .quiet })

/-- With nothing presented and RST released the block waits: its whole state survives, and the surroundings go
on to what comes next, if anything does: the ports to the next moment, and the buffer space to the bytes the
outside has stored by then, the last one stored at an address counting (R185, R44; that a wait is a step of
the model is log 6, that the outside's stores are its inputs log 18, both DESIGN CHOICE). -/
def Obligations.WaitingKeepsTheBlock : Prop :=
  ∀ s : State, s.now.rst = false → s.now.presented = [] →
    ∃ t, step s = .next t ∧ KeepsController s t ∧ KeepsPeripheral s t ∧ KeepsShared s t ∧
      t.params = s.params ∧ t.out = .quiet ∧ t.draws = s.draws ∧
      t.buf.rxBase = s.buf.rxBase ∧ t.buf.rxCapacity = s.buf.rxCapacity ∧
      (s.later = [] → KeepsSurroundings s t) ∧
      (∀ a rest, s.later = a :: rest → t.now = a.moment ∧ t.later = rest ∧
        (∀ n, (∀ w ∈ a.stored, w.1.toNat ≠ n) →
          Memory.read t.buf.cells n = Memory.read s.buf.cells n) ∧
        ∀ before x b after, a.stored = before ++ (x, b) :: after → (∀ w ∈ after, w.1 ≠ x) →
          Memory.read t.buf.cells x.toNat = some b)

/-- A transfer in flight stays in flight over every step that is neither a P_STATUS nor a reset, whatever is
presented beside the input the arbiter hands over: there is no
timeout, and D_WAIT is a stuck state if P_STATUS never comes (R108, R197). -/
def Obligations.OnlyStatusOrResetEndsTheWait : Prop :=
  ∀ s t : State, step s = .next t → s.now.rst = false → s.ctl.dseq = .wait →
    (∀ inp r status, s.arbitrate = some (inp, r) → decodeInput inp ≠ some (.pStatus status)) →
      t.ctl.dseq = .wait

/-- While RST is asserted a step accepts none of the inputs presented and leaves the block as R34 says; the
machine after reset is so too (R34, R190).  The elements R34 calls unspecified are not named here.  That the
inputs presented with RST are lost, that RST is released after the one step and that what comes later stays
as it was is the model's choice (log 10, DESIGN CHOICE, unsafe). -/
def Obligations.ResetLeavesTheStateOfTheResetTable : Prop :=
  let asReset (t : State) : Prop :=
    t.ctl.bh.valid = false ∧ (∀ i, t.profile? i = none) ∧ t.ctl.dseq = .idle ∧
      t.ctl.xfer = { err := .ok, bytes := 0, code := 0, seq := 0 } ∧ t.act = [] ∧
      t.per.pcfg.valid = false ∧ t.per.st = .idle ∧ t.per.arm.csEn = false ∧ t.per.arm.dataEn = false ∧
      t.per.session = false ∧ t.per.malformedCount = 0 ∧ t.flags.word = 0 ∧ t.per.primCode = 0 ∧
      (∀ a, Memory.read t.per.cur a = none) ∧ (∀ a, Memory.read t.per.shd a = none)
  asReset State.reset ∧
    ∀ s : State, s.now.rst = true →
      ∃ t, step s = .next t ∧ asReset t ∧ t.params = s.params ∧ t.later = s.later ∧ KeepsBuffers s t ∧
        t.now.presented = [] ∧ t.now.rst = false ∧
        t.now.coreDivRaw = s.now.coreDivRaw ∧ t.now.refDivRaw = s.now.refDivRaw

/-- Every step of every state answers a next state: no command, event, word or wait stops the block (R8,
R121, R170, R185).  That no step stops is read from the spec by inference (log 13, DEDUCED), and that a wait
is a step of the model's choosing (log 6, DESIGN CHOICE). -/
def Obligations.EveryStepCompletes : Prop := ∀ s : State, ∃ t, step s = .next t

/-! ## Timing Calibrator -/

/-- The threshold table: strict comparisons, tried top to bottom (R82). -/
def Obligations.ThresholdTable : Prop :=
  ∀ ratio : Nat,
    (ratio < 3 → lookupDelays .ref ratio = { delay := 34, delayShort := 18 }) ∧
    (3 ≤ ratio → ratio < 13 → lookupDelays .ref ratio = { delay := 33, delayShort := 17 }) ∧
    (13 ≤ ratio → lookupDelays .ref ratio = { delay := 32, delayShort := 16 }) ∧
    (ratio < 4 → lookupDelays .core ratio = { delay := 34, delayShort := 18 }) ∧
    (4 ≤ ratio → ratio < 8 → lookupDelays .core ratio = { delay := 33, delayShort := 17 }) ∧
    (8 ≤ ratio → lookupDelays .core ratio = { delay := 32, delayShort := 16 })

/-- The delays are those of the ratio, and the ratio is the quotient, rounded down, of products that do not
wrap (R81, R83): for `core_div = core_divider_raw + 1` it is the one `q` with
`q * core_div ≤ ref_div < (q + 1) * core_div`. -/
def Obligations.RatioIsTheExactQuotient : Prop :=
  ∀ (src : ClockSource) (divider coreRaw refRaw : Word),
    computeDelays src divider coreRaw refRaw =
        lookupDelays src (calRatio src divider coreRaw refRaw) ∧
      (∀ q : Nat, calRatio .ref divider coreRaw refRaw = q ↔
        q * (coreRaw.toNat + 1) ≤ (refRaw.toNat + 1) * (divider.toNat + 1) ∧
          (refRaw.toNat + 1) * (divider.toNat + 1) < (q + 1) * (coreRaw.toNat + 1)) ∧
      (∀ q : Nat, calRatio .core divider coreRaw refRaw = q ↔
        q * (coreRaw.toNat + 1) ≤ (coreRaw.toNat + 1) * (divider.toNat + 1) ∧
          (coreRaw.toNat + 1) * (divider.toNat + 1) < (q + 1) * (coreRaw.toNat + 1))

/-- With a core-derived source the ratio is `divider + 1` whatever the raw dividers are: divider 0 to 2
gives (34, 18), 3 to 6 (33, 17), 7 and above (32, 16).  With a reference-derived source the ratio is 0 when
the numerator is smaller than core_div (R85). -/
def Obligations.CoreDerivedRatioIsTheDivider : Prop :=
  ∀ divider coreRaw refRaw : Word,
    calRatio .core divider coreRaw refRaw = divider.toNat + 1 ∧
      (divider.toNat ≤ 2 →
        computeDelays .core divider coreRaw refRaw = { delay := 34, delayShort := 18 }) ∧
      (3 ≤ divider.toNat → divider.toNat ≤ 6 →
        computeDelays .core divider coreRaw refRaw = { delay := 33, delayShort := 17 }) ∧
      (7 ≤ divider.toNat →
        computeDelays .core divider coreRaw refRaw = { delay := 32, delayShort := 16 }) ∧
      calRatio .ref divider coreRaw refRaw =
        ((refRaw.toNat + 1) * (divider.toNat + 1)) / (coreRaw.toNat + 1) ∧
      ((refRaw.toNat + 1) * (divider.toNat + 1) < coreRaw.toNat + 1 →
        calRatio .ref divider coreRaw refRaw = 0)

/-- The only outputs are (34, 18), (33, 17), (32, 16), so the two delays always differ by the fixed pipeline
offset of 16 (R84 (b), (d)). -/
def Obligations.DelaysDifferBySixteen : Prop :=
  ∀ (src : ClockSource) (divider coreRaw refRaw : Word),
    let d := computeDelays src divider coreRaw refRaw
    (d = { delay := 34, delayShort := 18 } ∨ d = { delay := 33, delayShort := 17 } ∨
      d = { delay := 32, delayShort := 16 }) ∧
      d.delay = d.delayShort + 16

/-- CALC responds with the delays of its operands; the only error is Busy (R80). -/
def Obligations.CalcRespondsWithTheDelays : Prop :=
  ∀ (src : ClockSource) (divider coreRaw refRaw : Word) (s : State),
    (s.ctl.dseq = .wait → exec (.calcDelays src divider coreRaw refRaw) s = .next (refused s .busy)) ∧
    (s.ctl.dseq = .idle →
      ∃ t, exec (.calcDelays src divider coreRaw refRaw) s = .next t ∧ KeepsAll s t ∧
        Responds t .ok (computeDelays src divider coreRaw refRaw).delay
          (computeDelays src divider coreRaw refRaw).delayShort)

/-! ## Bus Handle and Device Profiles -/

/-- BUSINIT records its operands, deasserts every chip-select, emits nothing, and is refused when a transfer
is in flight or the handle exists (R90). -/
def Obligations.BusInitCreatesTheHandleOnce : Prop :=
  ∀ (src : ClockSource) (divider idle deassert : Word) (s : State),
    (s.ctl.dseq = .wait → exec (.busInit src divider idle deassert) s = .next (refused s .busy)) ∧
    (s.ctl.dseq = .idle → s.ctl.bh.valid = true →
      exec (.busInit src divider idle deassert) s = .next (refused s .badState)) ∧
    (s.ctl.dseq = .idle → s.ctl.bh.valid = false →
      ∃ t, exec (.busInit src divider idle deassert) s = .next t ∧
        t.ctl.bh = { valid := true, clockSource := src, divider := divider, idleClockPattern := idle,
                     csDeassertPattern := deassert } ∧
        t.ctl.csLines = deassert ∧ Responds t .ok 0 0 ∧
        KeepsSlots s t ∧ KeepsSequencing s t ∧ KeepsPeripheral s t ∧ KeepsShared s t ∧
        KeepsSurroundings s t)

/-- BIND fills a free slot with the profile of its operands and of the raw divider ports as they are in this
step, and responds with its delays; else it is refused, the first failing check of Busy, BadState,
InvalidSlot, InvalidPin being reported (R91, R161). -/
def Obligations.BindConstructsTheProfile : Prop :=
  ∀ (slot pin : Nat) (pol pha : Bool) (src : ClockSource) (divider : Word) (s : State),
    let i := Instr.bind slot pin pol pha src divider
    let d := computeDelays src divider s.now.coreDivRaw s.now.refDivRaw
    (s.ctl.dseq = .wait → exec i s = .next (refused s .busy)) ∧
    (s.ctl.dseq = .idle → s.ctl.bh.valid = false → exec i s = .next (refused s .badState)) ∧
    (s.ctl.dseq = .idle → s.ctl.bh.valid = true → s.params.nProf ≤ slot →
      exec i s = .next (refused s .invalidSlot)) ∧
    (s.ctl.dseq = .idle → s.ctl.bh.valid = true → slot < s.params.nProf → s.bound slot = true →
      exec i s = .next (refused s .invalidSlot)) ∧
    (s.ctl.dseq = .idle → s.ctl.bh.valid = true → slot < s.params.nProf → s.bound slot = false →
      s.params.csWidth ≤ pin → exec i s = .next (refused s .invalidPin)) ∧
    (s.ctl.dseq = .idle → s.ctl.bh.valid = true → slot < s.params.nProf → s.bound slot = false →
      pin < s.params.csWidth →
      ∃ t, exec i s = .next t ∧
        t.profile? slot = some
          { csMask := csMask s.ctl.bh.csDeassertPattern pin, clockSource := src, divider := divider,
            clockPattern := clockPattern pol pha, idleClockPattern := idlePattern pol,
            inputDelay := d.delay, inputDelayShort := d.delayShort } ∧
        Responds t .ok d.delay d.delayShort ∧
        KeepsOtherSlots slot s t ∧ KeepsBus s t ∧ KeepsTransfer s t ∧ KeepsPeripheral s t ∧
        KeepsShared s t ∧ KeepsSurroundings s t)

/-- The pattern table: the four combinations of polarity and phase (R92). -/
def Obligations.PatternTable : Prop :=
  (clockPattern false false = 0xAAAAAAAA ∧ idlePattern false = 0x00000000) ∧
    clockPattern false true = 0x55555555 ∧
    (clockPattern true false = 0x55555555 ∧ idlePattern true = 0xFFFFFFFF) ∧
    clockPattern true true = 0xAAAAAAAA

/-- Bit by bit, the chip-select mask has the pin's bit alone, or every bit but the pin's when the bus's
deassertion pattern is the all-ones word, for each pin a block can have (R93). -/
def Obligations.ChipSelectMaskBits : Prop :=
  ∀ (deassert : Word) (pin bit : Nat), pin < 32 → bit < 32 →
    (deassert = 0xFFFFFFFF → (csMask deassert pin).getLsbD bit = decide (bit ≠ pin)) ∧
    (deassert ≠ 0xFFFFFFFF → (csMask deassert pin).getLsbD bit = decide (bit = pin))

/-- SETDIV gives a bound profile a clock source, a divider and the delays of both, run afresh on the raw
divider ports, touches no other field and emits nothing; else it is refused, the first failing check of
Busy, BadState, InvalidSlot being reported (R94). -/
def Obligations.SetDivRetimesTheProfile : Prop :=
  ∀ (slot : Nat) (src : ClockSource) (divider : Word) (s : State),
    let i := Instr.setDiv slot src divider
    let d := computeDelays src divider s.now.coreDivRaw s.now.refDivRaw
    (s.ctl.dseq = .wait → exec i s = .next (refused s .busy)) ∧
    (s.ctl.dseq = .idle → s.ctl.bh.valid = false → exec i s = .next (refused s .badState)) ∧
    (s.ctl.dseq = .idle → s.ctl.bh.valid = true → s.params.nProf ≤ slot →
      exec i s = .next (refused s .invalidSlot)) ∧
    (s.ctl.dseq = .idle → s.ctl.bh.valid = true → slot < s.params.nProf → s.profile? slot = none →
      exec i s = .next (refused s .invalidSlot)) ∧
    (∀ p, s.ctl.dseq = .idle → s.ctl.bh.valid = true → slot < s.params.nProf →
      s.profile? slot = some p →
      ∃ t, exec i s = .next t ∧
        t.profile? slot = some
          { csMask := p.csMask, clockSource := src, divider := divider, clockPattern := p.clockPattern,
            idleClockPattern := p.idleClockPattern, inputDelay := d.delay,
            inputDelayShort := d.delayShort } ∧
        Responds t .ok d.delay d.delayShort ∧
        KeepsOtherSlots slot s t ∧ KeepsBus s t ∧ KeepsTransfer s t ∧ KeepsPeripheral s t ∧
        KeepsShared s t ∧ KeepsSurroundings s t)

/-- UNBIND frees a bound slot and changes neither the Bus Handle nor the select lines; else it is refused,
the first failing check of Busy, BadState, InvalidSlot being reported (R95). -/
def Obligations.UnbindFreesTheSlot : Prop :=
  ∀ (slot : Nat) (s : State),
    (s.ctl.dseq = .wait → exec (.unbind slot) s = .next (refused s .busy)) ∧
    (s.ctl.dseq = .idle → s.ctl.bh.valid = false →
      exec (.unbind slot) s = .next (refused s .badState)) ∧
    (s.ctl.dseq = .idle → s.ctl.bh.valid = true → s.params.nProf ≤ slot →
      exec (.unbind slot) s = .next (refused s .invalidSlot)) ∧
    (s.ctl.dseq = .idle → s.ctl.bh.valid = true → slot < s.params.nProf → s.bound slot = false →
      exec (.unbind slot) s = .next (refused s .invalidSlot)) ∧
    (s.ctl.dseq = .idle → s.ctl.bh.valid = true → slot < s.params.nProf → s.bound slot = true →
      ∃ t, exec (.unbind slot) s = .next t ∧ t.bound slot = false ∧ Responds t .ok 0 0 ∧
        KeepsOtherSlots slot s t ∧ KeepsBus s t ∧ KeepsTransfer s t ∧ KeepsPeripheral s t ∧
        KeepsShared s t ∧ KeepsSurroundings s t)

/-! ## Transfer Dispatcher -/

/-- An accepted DISPATCH emits, in this order and in one step: a reconfiguration for each of clock source,
divider and idle pattern in which the profile differs from the Bus Handle, the flush, the chip-select mask,
and the short primitive for a length below 5, else the burst primitive, with the profile's arguments.  The
Bus Handle then agrees with the profile, and the dispatcher waits (R100, R102 to R107).  Else it is
refused, the first failing check of Busy, BadState, InvalidSlot, LengthMismatch being reported (R101).  The
primitive has its rx buffer from then on, and no byte of BUF has changed: that State holds BUF, the rx base
and the rx capacity is the model's choice (R44, log 18, DESIGN CHOICE, unsafe). -/
def Obligations.DispatchEmitsItsStepsInOrder : Prop :=
  ∀ (slot : Nat) (rxReq : Bool) (length txBase rxBase rxCapacity : Word) (s : State),
    let i := Instr.dispatch slot rxReq length txBase rxBase rxCapacity
    let b := s.ctl.bh
    (s.ctl.dseq = .wait → exec i s = .next (refused s .busy)) ∧
    (s.ctl.dseq = .idle → b.valid = false → exec i s = .next (refused s .badState)) ∧
    (s.ctl.dseq = .idle → b.valid = true → s.params.nProf ≤ slot →
      exec i s = .next (refused s .invalidSlot)) ∧
    (s.ctl.dseq = .idle → b.valid = true → slot < s.params.nProf → s.profile? slot = none →
      exec i s = .next (refused s .invalidSlot)) ∧
    (∀ p, s.ctl.dseq = .idle → b.valid = true → slot < s.params.nProf → s.profile? slot = some p →
      rxReq = true → rxCapacity.toNat < length.toNat → exec i s = .next (refused s .lengthMismatch)) ∧
    (∀ p, s.ctl.dseq = .idle → b.valid = true → slot < s.params.nProf → s.profile? slot = some p →
      (rxReq = false ∨ length.toNat ≤ rxCapacity.toNat) →
      let args : PrimitiveArgs :=
        { rxReq := rxReq, txBase := txBase, rxBase := rxBase, length := length,
          delayShort := p.inputDelayShort, delay := p.inputDelay, clockPattern := p.clockPattern,
          csDeassertPattern := b.csDeassertPattern, idlePattern := p.idleClockPattern }
      ∃ t, exec i s = .next t ∧
        t.act = s.act ++
          (if p.clockSource = b.clockSource then [] else [.clkSrc p.clockSource]) ++
          (if p.divider = b.divider then [] else [.div p.divider]) ++
          (if p.idleClockPattern = b.idleClockPattern then []
            else [.idleBegin, .idleLatch p.idleClockPattern, .idleEnd]) ++
          [.flush, .cs p.csMask] ++
          (if length.toNat < 5 then [.short args] else [.burst args]) ∧
        t.ctl.bh = { valid := true, clockSource := p.clockSource, divider := p.divider,
                     idleClockPattern := p.idleClockPattern,
                     csDeassertPattern := b.csDeassertPattern } ∧
        t.ctl.csLines = p.csMask ∧ t.ctl.dseq = .wait ∧
        t.ctl.lat = { length := length, rxReq := rxReq } ∧ t.ctl.xfer = s.ctl.xfer ∧
        Responds t .ok 0 0 ∧ t.flags = s.flags ∧
        KeepsSlots s t ∧ KeepsPeripheral s t ∧ KeepsPorts s t ∧
        t.buf.rxBase = rxBase ∧ t.buf.rxCapacity = rxCapacity ∧
        ∀ a, Memory.read t.buf.cells a = Memory.read s.buf.cells a)

/-- Reconfiguration is applied only when needed and is idempotent (R110): when the Bus Handle agrees with
profile A, and B differs from A in the divider alone of the three cached fields, a DISPATCH of B emits one
reconfiguration action, A_DIV of B's divider, and, once its transfer is over, a DISPATCH of B again emits
none. -/
def Obligations.ReconciliationIsIdempotent : Prop :=
  ∀ (s t u v : State) (a b : Profile) (slotB : Nat) (rx rx' : Bool)
    (len tx rxb cap len' tx' rxb' cap' status : Word),
    s.ctl.bh.clockSource = a.clockSource → s.ctl.bh.divider = a.divider →
    s.ctl.bh.idleClockPattern = a.idleClockPattern →
    s.profile? slotB = some b → b.clockSource = a.clockSource →
    b.idleClockPattern = a.idleClockPattern → b.divider ≠ a.divider →
    exec (.dispatch slotB rx len tx rxb cap) s = .next t → Responds t .ok 0 0 →
    exec (.pStatus status) t = .next u →
    exec (.dispatch slotB rx' len' tx' rxb' cap') u = .next v → Responds v .ok 0 0 →
      (∃ new, t.act = s.act ++ new ∧ new.filter reconfigures = [.div b.divider]) ∧
        ∃ new, v.act = u.act ++ new ∧ new.filter reconfigures = []

/-- P_STATUS ends the wait: XFER gets OK and the latched length, or BusFault and 0 for a nonzero status,
which is handed on verbatim; seq counts one more, every chip-select is released, and the Bus Handle is not
rolled back.  With no transfer in flight it only sets EVT_UNEXPECTED (R109, R163).  What LAT holds after the
wait is open (R17, U9, log 12); what has become of BUF by then is `CompletionFillsTheReceiveBuffer`. -/
def Obligations.StatusEndsTheTransfer : Prop :=
  ∀ (status : Word) (s : State),
    (s.ctl.dseq = .idle →
      ∃ t, exec (.pStatus status) s = .next t ∧ t.flags = { s.flags with evtUnexpected := true } ∧
        t.act = s.act ∧ KeepsController s t ∧ KeepsPeripheral s t ∧ KeepsSurroundings s t) ∧
    (s.ctl.dseq = .wait →
      ∃ t, exec (.pStatus status) s = .next t ∧
        (status = 0 → t.ctl.xfer.err = .ok ∧ t.ctl.xfer.bytes = s.ctl.lat.length) ∧
        (status ≠ 0 → t.ctl.xfer.err = .busFault ∧ t.ctl.xfer.bytes = 0) ∧
        t.ctl.xfer.code = status ∧
        t.ctl.xfer.seq.toNat = (s.ctl.xfer.seq.toNat + 1) % 2 ^ 32 ∧
        t.ctl.csLines = s.ctl.bh.csDeassertPattern ∧ t.ctl.dseq = .idle ∧
        KeepsBus s t ∧ KeepsSlots s t ∧ KeepsPeripheral s t ∧ KeepsShared s t ∧ KeepsPorts s t ∧
        t.buf.rxBase = s.buf.rxBase ∧ t.buf.rxCapacity = s.buf.rxCapacity)

/-! ## Transaction Engine -/

/-- PINIT configures the engine in Idle and arms it for the assertion level, whatever the controller role is
doing; with a session open it is refused with BadState, and a table_length above TABLE_MAX with
InvalidRange (R120). -/
def Obligations.PInitConfiguresTheEngine : Prop :=
  ∀ (level : Bool) (tableLength nulls offset : Word) (s : State),
    let i := Instr.pInit level tableLength nulls offset
    (s.per.st ≠ .idle → exec i s = .next (refused s .badState)) ∧
    (s.per.st = .idle → s.params.tableMax < tableLength.toNat →
      exec i s = .next (refused s .invalidRange)) ∧
    (s.per.st = .idle → tableLength.toNat ≤ s.params.tableMax →
      ∃ t, exec i s = .next t ∧
        t.per.pcfg = { valid := true, assertLevel := level, tableLength := tableLength,
                       nullCycleCount := nulls, outputOffset := offset } ∧
        t.per.arm = { csEn := true, csLevel := level, dataEn := false } ∧
        t.per.st = .idle ∧ t.per.csSeen = s.per.csSeen ∧ t.per.session = s.per.session ∧
        Responds t .ok 0 0 ∧ KeepsCounters s t ∧ KeepsBanks s t ∧ KeepsController s t ∧
        KeepsShared s t ∧ KeepsSurroundings s t)

/-- An assertion in Idle starts a transaction (R123). -/
def Obligations.AssertionStartsASession : Prop :=
  ∀ (level : Bool) (s : State), s.per.pcfg.valid = true → level = s.per.pcfg.assertLevel →
    s.per.st = .idle →
      ∃ t, exec (.eCs level) s = .next t ∧ t.per.csSeen = level ∧
        t.per.arm = { csEn := true, csLevel := !level, dataEn := true } ∧
        t.act = s.act ++ [.sStart s.per.pcfg.tableLength s.per.pcfg.nullCycleCount
          s.per.pcfg.outputOffset] ∧
        t.per.session = true ∧ t.per.st = .waitingForAddress ∧
        t.flags = s.flags ∧ KeepsConfiguration s t ∧ KeepsCounters s t ∧ KeepsBanks s t ∧
        KeepsController s t ∧ KeepsSurroundings s t

/-- An assertion while a session is open, in WaitingForAddress or in any data state, is malformed: counted,
saturating, the session discarded and a new one opened in WaitingForAddress; no cell changes and no port
reports it (R126, R128, R164). -/
def Obligations.ReassertionIsMalformed : Prop :=
  ∀ (level : Bool) (s : State), s.per.pcfg.valid = true → level = s.per.pcfg.assertLevel →
    s.per.st ≠ .idle →
      ∃ t, exec (.eCs level) s = .next t ∧ t.per.csSeen = level ∧
        t.per.malformedCount.toNat = min (s.per.malformedCount.toNat + 1) 0xFFFFFFFF ∧
        t.act = s.act ++ [.sAbort, .sStart s.per.pcfg.tableLength s.per.pcfg.nullCycleCount
          s.per.pcfg.outputOffset] ∧
        t.per.arm = { csEn := true, csLevel := !level, dataEn := true } ∧
        t.per.session = true ∧ t.per.st = .waitingForAddress ∧ t.out = .quiet ∧
        t.per.primCode = s.per.primCode ∧ t.flags = s.flags ∧ KeepsConfiguration s t ∧
        KeepsBanks s t ∧ KeepsController s t ∧ KeepsSurroundings s t

/-- A deassertion ends an open session, discards it and arms for the next assertion, and is not counted
(R125, R127); in Idle it has no effect (R124). -/
def Obligations.DeassertionEndsTheSession : Prop :=
  ∀ (level : Bool) (s : State), s.per.pcfg.valid = true → level ≠ s.per.pcfg.assertLevel →
    (s.per.st = .idle → ∃ t, exec (.eCs level) s = .next t ∧ KeepsAll s t ∧ t.out = .quiet) ∧
    (s.per.st ≠ .idle →
      ∃ t, exec (.eCs level) s = .next t ∧ t.per.csSeen = level ∧ t.act = s.act ++ [.sAbort] ∧
        t.per.session = false ∧
        t.per.arm = { csEn := true, csLevel := s.per.pcfg.assertLevel, dataEn := false } ∧
        t.per.st = .idle ∧ t.flags = s.flags ∧ KeepsConfiguration s t ∧ KeepsCounters s t ∧
        KeepsBanks s t ∧ KeepsController s t ∧ KeepsSurroundings s t)

/-- E_DECODE of each kind takes WaitingForAddress to the data state of the kind, changing ST alone; in any
other state it only sets EVT_UNEXPECTED (R129). -/
def Obligations.DecodeClassifiesTheTransaction : Prop :=
  ∀ (i : Instr) (data : TxState) (s : State),
    (i = .eDecodeW ∧ data = .writing ∨ i = .eDecodeR ∧ data = .reading ∨
      i = .eDecodeRW ∧ data = .readingWriting) →
    (s.per.st = .waitingForAddress →
      ∃ t, exec i s = .next t ∧ t.per.st = data ∧ t.per.csSeen = s.per.csSeen ∧ t.per.arm = s.per.arm ∧
        t.per.session = s.per.session ∧ KeepsConfiguration s t ∧ KeepsCounters s t ∧ KeepsBanks s t ∧
        KeepsController s t ∧ KeepsShared s t ∧ KeepsSurroundings s t) ∧
    (s.per.st ≠ .waitingForAddress →
      ∃ t, exec i s = .next t ∧ t.flags = { s.flags with evtUnexpected := true } ∧ t.act = s.act ∧
        KeepsPeripheral s t ∧ KeepsController s t ∧ KeepsSurroundings s t)

/-- E_DONE closes the open session and arms for the next assertion, emitting nothing; a nonzero code sets
PRIM_ERR and is latched in PRIM_CODE, and code 0 leaves both.  With no session open it only sets
EVT_UNEXPECTED (R130). -/
def Obligations.DoneClosesTheSession : Prop :=
  ∀ (code : Word) (s : State),
    (s.per.session = false →
      ∃ t, exec (.eDone code) s = .next t ∧ t.flags = { s.flags with evtUnexpected := true } ∧
        t.act = s.act ∧ KeepsPeripheral s t ∧ KeepsController s t ∧ KeepsSurroundings s t) ∧
    (s.per.session = true →
      ∃ t, exec (.eDone code) s = .next t ∧ t.per.session = false ∧
        t.per.arm = { csEn := true, csLevel := s.per.pcfg.assertLevel, dataEn := false } ∧
        t.per.st = .idle ∧
        (code ≠ 0 → t.flags = { s.flags with primErr := true } ∧ t.per.primCode = code) ∧
        (code = 0 → t.flags = s.flags ∧ t.per.primCode = s.per.primCode) ∧
        t.act = s.act ∧ t.per.csSeen = s.per.csSeen ∧
        t.per.malformedCount = s.per.malformedCount ∧ KeepsConfiguration s t ∧ KeepsBanks s t ∧
        KeepsController s t ∧ KeepsSurroundings s t)

/-- E_DATA changes no state in any state of ST and sets no flag (R131). -/
def Obligations.DataEdgeChangesNothing : Prop :=
  ∀ s : State, ∃ t, exec .eData s = .next t ∧ KeepsAll s t ∧ t.out = .quiet

/-- While the engine is unconfigured, from an Idle with no session, E_CS and E_DATA leave no trace and
E_DECODE and E_DONE only set EVT_UNEXPECTED (R136). -/
def Obligations.UnconfiguredEngineIgnoresTheLink : Prop :=
  ∀ s : State, s.per.pcfg.valid = false → s.per.st = .idle → s.per.session = false →
    (∀ i, (i = .eData ∨ ∃ level, i = .eCs level) → ∃ t, exec i s = .next t ∧ KeepsAll s t) ∧
    (∀ i, (i = .eDecodeW ∨ i = .eDecodeR ∨ i = .eDecodeRW ∨ ∃ code, i = .eDone code) →
      ∃ t, exec i s = .next t ∧ t.flags = { s.flags with evtUnexpected := true } ∧ t.act = s.act ∧
        KeepsPeripheral s t ∧ KeepsController s t ∧ KeepsSurroundings s t)

/-- The next state of each cell of the transition table (R135), for a configured engine in which SESSION = 1
exactly when ST is not Idle. -/
def Obligations.TransitionTable : Prop :=
  ∀ s : State, s.per.pcfg.valid = true → (s.per.session = true ↔ s.per.st ≠ .idle) →
    let goes (i : Instr) (q : TxState) : Prop := ∃ t, exec i s = .next t ∧ t.per.st = q
    goes (.eCs s.per.pcfg.assertLevel) .waitingForAddress ∧
      goes (.eCs (!s.per.pcfg.assertLevel)) .idle ∧
      (s.per.st = .waitingForAddress →
        goes .eDecodeW .writing ∧ goes .eDecodeR .reading ∧ goes .eDecodeRW .readingWriting) ∧
      (s.per.st ≠ .waitingForAddress →
        goes .eDecodeW s.per.st ∧ goes .eDecodeR s.per.st ∧ goes .eDecodeRW s.per.st) ∧
      (∀ code, goes (.eDone code) .idle) ∧
      goes .eData s.per.st

/-! ## Register Table -/

/-- TWRITE writes one cell of SHD and no cell of CUR, in every state of ST; before PINIT it is refused with
BadState and outside the table with InvalidRange (R150). -/
def Obligations.TWriteWritesTheShadowCell : Prop :=
  ∀ (address : Word) (byte : Byte) (s : State),
    (s.per.pcfg.valid = false → exec (.tWrite address byte) s = .next (refused s .badState)) ∧
    (s.per.pcfg.valid = true → s.per.pcfg.tableLength.toNat ≤ address.toNat →
      exec (.tWrite address byte) s = .next (refused s .invalidRange)) ∧
    (s.per.pcfg.valid = true → address.toNat < s.per.pcfg.tableLength.toNat →
      ∃ t, exec (.tWrite address byte) s = .next t ∧
        Memory.read t.per.shd address.toNat = some byte ∧ KeepsOtherShd address.toNat s t ∧
        KeepsCur s t ∧ Responds t .ok 0 0 ∧ KeepsEngine s t ∧ KeepsController s t ∧
        KeepsShared s t ∧ KeepsSurroundings s t)

/-- TREAD responds with the byte CUR holds, zero-extended, and changes no state; of a cell that holds no
value it responds with some byte, bits 31:8 being 0 (R151). -/
def Obligations.TReadReadsTheCurrentCell : Prop :=
  ∀ (address : Word) (s : State),
    (s.per.pcfg.valid = false → exec (.tRead address) s = .next (refused s .badState)) ∧
    (s.per.pcfg.valid = true → s.per.pcfg.tableLength.toNat ≤ address.toNat →
      exec (.tRead address) s = .next (refused s .invalidRange)) ∧
    (s.per.pcfg.valid = true → address.toNat < s.per.pcfg.tableLength.toNat →
      ∃ (t : State) (b : Byte), exec (.tRead address) s = .next t ∧ KeepsAll s t ∧
        Responds t .ok (b.setWidth 32) 0 ∧
        ∀ c, Memory.read s.per.cur address.toNat = some c → b = c)

/-- PUBLISH copies every cell of a range wholly inside the table from SHD to CUR in one step, a cell that
holds no value included, and nothing else; the sum is on naturals (R152). -/
def Obligations.PublishCopiesTheRange : Prop :=
  ∀ (address length : Word) (s : State),
    (s.per.pcfg.valid = false → exec (.publish address length) s = .next (refused s .badState)) ∧
    (s.per.pcfg.valid = true → s.per.pcfg.tableLength.toNat < address.toNat + length.toNat →
      exec (.publish address length) s = .next (refused s .invalidRange)) ∧
    (s.per.pcfg.valid = true → address.toNat + length.toNat ≤ s.per.pcfg.tableLength.toNat →
      ∃ t, exec (.publish address length) s = .next t ∧
        (∀ a, address.toNat ≤ a → a < address.toNat + length.toNat →
          Memory.read t.per.cur a = Memory.read s.per.shd a) ∧
        (∀ a, ¬(address.toNat ≤ a ∧ a < address.toNat + length.toNat) →
          Memory.read t.per.cur a = Memory.read s.per.cur a) ∧
        KeepsShd s t ∧ Responds t .ok 0 0 ∧ KeepsEngine s t ∧ KeepsController s t ∧
        KeepsShared s t ∧ KeepsSurroundings s t)

/-- E_REGWR writes one cell of SHD in Writing and ReadingWriting; out of phase it only sets EVT_UNEXPECTED,
in phase and out of range only TBL_RANGE, and the table is untouched (R153, R175). -/
def Obligations.BusWriteWritesTheShadowCell : Prop :=
  ∀ (address : Word) (byte : Byte) (s : State),
    let inPhase := s.per.st = .writing ∨ s.per.st = .readingWriting
    (¬inPhase →
      ∃ t, exec (.eRegWr address byte) s = .next t ∧ t.flags = { s.flags with evtUnexpected := true } ∧
        t.act = s.act ∧ KeepsPeripheral s t ∧ KeepsController s t ∧ KeepsSurroundings s t) ∧
    (inPhase → s.per.pcfg.tableLength.toNat ≤ address.toNat →
      ∃ t, exec (.eRegWr address byte) s = .next t ∧ t.flags = { s.flags with tblRange := true } ∧
        t.act = s.act ∧ KeepsPeripheral s t ∧ KeepsController s t ∧ KeepsSurroundings s t) ∧
    (inPhase → address.toNat < s.per.pcfg.tableLength.toNat →
      ∃ t, exec (.eRegWr address byte) s = .next t ∧ t.out = .quiet ∧
        Memory.read t.per.shd address.toNat = some byte ∧ KeepsOtherShd address.toNat s t ∧
        KeepsCur s t ∧ KeepsEngine s t ∧ KeepsController s t ∧ KeepsShared s t ∧
        KeepsSurroundings s t)

/-- E_REGRD replies with the byte CUR holds in Reading and ReadingWriting and changes no state; out of phase
it only sets EVT_UNEXPECTED, in phase and out of range only TBL_RANGE, and the reply is some byte (R154,
R175). -/
def Obligations.BusReadReadsTheCurrentCell : Prop :=
  ∀ (address : Word) (s : State),
    let inPhase := s.per.st = .reading ∨ s.per.st = .readingWriting
    (¬inPhase →
      ∃ (t : State) (b : Byte), exec (.eRegRd address) s = .next t ∧ t.out = .eresp b ∧
        t.flags = { s.flags with evtUnexpected := true } ∧ t.act = s.act ∧ KeepsPeripheral s t ∧
        KeepsController s t ∧ KeepsSurroundings s t) ∧
    (inPhase → s.per.pcfg.tableLength.toNat ≤ address.toNat →
      ∃ (t : State) (b : Byte), exec (.eRegRd address) s = .next t ∧ t.out = .eresp b ∧
        t.flags = { s.flags with tblRange := true } ∧ t.act = s.act ∧ KeepsPeripheral s t ∧
        KeepsController s t ∧ KeepsSurroundings s t) ∧
    (inPhase → address.toNat < s.per.pcfg.tableLength.toNat →
      ∃ (t : State) (b : Byte), exec (.eRegRd address) s = .next t ∧ t.out = .eresp b ∧ KeepsAll s t ∧
        ∀ c, Memory.read s.per.cur address.toNat = some c → b = c)

/-- A cell of CUR holds, after any run of instructions without a PUBLISH covering its address, what the last
PUBLISH covering it copied from SHD, whatever has been written to SHD since (R50, R155 (c)). -/
def Obligations.LastPublishDecidesEveryRead : Prop :=
  ∀ (s t u : State) (address length : Word) (a : Nat) (run : List Instr),
    exec (.publish address length) s = .next t → Responds t .ok 0 0 →
    address.toNat ≤ a → a < address.toNat + length.toNat →
    (∀ i ∈ run, ¬publishes a i) → execAll run t = .next u →
      Memory.read u.per.cur a = Memory.read s.per.shd a

/-! ## Errors, flags and outputs -/

/-- Every controller-role command is refused with Busy while a transfer is in flight, and no
peripheral-role command is ever answered with Busy (R166). -/
def Obligations.BusyRefusesTheControllerRole : Prop :=
  (∀ (i : Instr) (s : State), controllerCommand i = true → s.ctl.dseq = .wait →
    exec i s = .next (refused s .busy)) ∧
  (∀ (i : Instr) (s t : State), peripheralCommand i = true → exec i s = .next t →
    ∀ r : Response, t.out = .response r → r.err ≠ .busy)

/-- Refusals are precise: a command answered with an error has changed nothing but the response port, which
carries (E, 0, 0) (R170). -/
def Obligations.RefusalsArePrecise : Prop :=
  ∀ (i : Instr) (s t : State) (r : Response), controllerCommand i = true ∨ peripheralCommand i = true →
    exec i s = .next t → t.out = .response r → r.err ≠ .ok → t = refused s r.err

/-- Every command is answered on the response port and no event is (R66, R69). -/
def Obligations.CommandsAreAnsweredAndEventsAreNot : Prop :=
  ∀ (i : Instr) (s t : State), exec i s = .next t →
    ((∃ r, t.out = .response r) ↔ (controllerCommand i = true ∨ peripheralCommand i = true))

/-- FLAGS bits are sticky: no step without a reset clears one (R30). -/
def Obligations.FlagsAreSticky : Prop :=
  ∀ s t : State, step s = .next t → s.now.rst = false →
    (s.flags.evtIllegal = true → t.flags.evtIllegal = true) ∧
      (s.flags.evtUnexpected = true → t.flags.evtUnexpected = true) ∧
      (s.flags.tblRange = true → t.flags.tblRange = true) ∧
      (s.flags.primErr = true → t.flags.primErr = true)

/-- An input the surroundings owe the block in its present state sets no error flag but PRIM_ERR, and that
only for a completion code that is not 0 (R30, R180, R181). -/
def Obligations.ExpectedInputsSetNoErrorFlag : Prop :=
  ∀ (i : Instr) (s t : State), Expected s i → exec i s = .next t →
    t.flags = s.flags ∨
      ∃ code, i = .eDone code ∧ code ≠ 0 ∧ t.flags = { s.flags with primErr := true }

/-- The action stream is append-only: no step without a reset removes or changes a record (R22). -/
def Obligations.ActionStreamOnlyGrows : Prop :=
  ∀ s t : State, step s = .next t → s.now.rst = false → ∃ new, t.act = s.act ++ new

/-- What the ports carry: the status port every level output R33 lists, BUSY being DSEQ = D_WAIT, PHASE_EXPECT
ST, and FLAGS its four bits with zeros above (R20, R28, R30, R33); ST in its encoding (R73), an error in its
code on ERR and on XFER.err (R160); and each of the eleven actions a record of its code, its bit 0 and its
payload (R70, R71). -/
def Obligations.PortsCarryTheState : Prop :=
  (∀ s : State, (s.statusPort.busy = true ↔ s.ctl.dseq = .wait) ∧
    s.statusPort.xferErr = s.ctl.xfer.err.code ∧ s.statusPort.xferBytes = s.ctl.xfer.bytes ∧
    s.statusPort.xferCode = s.ctl.xfer.code ∧ s.statusPort.xferSeq = s.ctl.xfer.seq ∧
    s.statusPort.csLines = s.ctl.csLines ∧ s.statusPort.bh = s.ctl.bh ∧
    s.statusPort.st = s.per.st.code ∧ s.statusPort.csSeen = s.per.csSeen ∧
    s.statusPort.armCsEn = s.per.arm.csEn ∧ s.statusPort.armCsLevel = s.per.arm.csLevel ∧
    s.statusPort.armDataEn = s.per.arm.dataEn ∧ s.statusPort.session = s.per.session ∧
    s.statusPort.phaseExpect = s.per.st.code ∧
    s.statusPort.malformedCount = s.per.malformedCount ∧ s.statusPort.primCode = s.per.primCode ∧
    s.statusPort.pcfg = s.per.pcfg ∧
    s.statusPort.flags.getLsbD 0 = s.flags.evtIllegal ∧
    s.statusPort.flags.getLsbD 1 = s.flags.evtUnexpected ∧
    s.statusPort.flags.getLsbD 2 = s.flags.tblRange ∧
    s.statusPort.flags.getLsbD 3 = s.flags.primErr ∧
    ∀ k, 4 ≤ k → s.statusPort.flags.getLsbD k = false) ∧
  (TxState.idle.code = 0 ∧ TxState.waitingForAddress.code = 1 ∧ TxState.writing.code = 2 ∧
    TxState.reading.code = 3 ∧ TxState.readingWriting.code = 4) ∧
  (∀ r : Response, r.errCode = r.err.code) ∧
  (ErrorCode.ok.code = 0x00 ∧ ErrorCode.invalidPin.code = 0x01 ∧ ErrorCode.lengthMismatch.code = 0x02 ∧
    ErrorCode.busFault.code = 0x03 ∧ ErrorCode.malformedTransaction.code = 0x04 ∧
    ErrorCode.illegalCommand.code = 0x05 ∧ ErrorCode.busy.code = 0x06 ∧ ErrorCode.badState.code = 0x07 ∧
    ErrorCode.invalidSlot.code = 0x08 ∧ ErrorCode.invalidRange.code = 0x09) ∧
  ((Action.clkSrc .core).record = { actw := 0x10000000, payload := [] } ∧
    (Action.clkSrc .ref).record = { actw := 0x10000001, payload := [] } ∧
    (∀ d, (Action.div d).record = { actw := 0x20000000, payload := [d] }) ∧
    Action.idleBegin.record = { actw := 0x30000000, payload := [] } ∧
    (∀ w, (Action.idleLatch w).record = { actw := 0x40000000, payload := [w] }) ∧
    Action.idleEnd.record = { actw := 0x50000000, payload := [] } ∧
    Action.flush.record = { actw := 0x60000000, payload := [] } ∧
    (∀ w, (Action.cs w).record = { actw := 0x70000000, payload := [w] }) ∧
    (∀ a : PrimitiveArgs,
      let words := [a.txBase, a.rxBase, a.length, a.delayShort, a.delay, a.clockPattern,
        a.csDeassertPattern, a.idlePattern]
      (a.rxReq = false → (Action.short a).record = { actw := 0x80000000, payload := words } ∧
        (Action.burst a).record = { actw := 0x90000000, payload := words }) ∧
      (a.rxReq = true → (Action.short a).record = { actw := 0x80000001, payload := words } ∧
        (Action.burst a).record = { actw := 0x90000001, payload := words })) ∧
    (∀ n c o, (Action.sStart n c o).record = { actw := 0xA0000000, payload := [n, c, o] }) ∧
    Action.sAbort.record = { actw := 0xB0000000, payload := [] })

/-! ## Over every state -/

/-- The machine after reset meets the invariant. -/
def Obligations.ResetMeetsTheInvariant : Prop := State.reset.Inv

/-- Every step keeps the invariant: canonical data, existing slots and cells, the engine's invariants of
R135, well-made profiles (R16), a Bus Handle under every profile and transfer, released select lines
between transfers, room in the rx buffer of a transfer (R101), and result registers that agree with each other. -/
def Obligations.StepKeepsTheInvariant : Prop :=
  ∀ s t : State, s.Inv → step s = .next t → t.Inv

/-- Once it exists nothing writes the Bus Handle but the reconciliation of DISPATCH, and its deassertion
pattern is never written again; before that BUSINIT is the one that creates it (R14 (c), R96). -/
def Obligations.BusHandleHasTwoWriters : Prop :=
  ∀ (i : Instr) (s t : State), exec i s = .next t →
    (s.ctl.bh.valid = true →
      t.ctl.bh.valid = true ∧ t.ctl.bh.csDeassertPattern = s.ctl.bh.csDeassertPattern ∧
        (t.ctl.bh ≠ s.ctl.bh → ∃ slot rx len tx rxb cap, i = .dispatch slot rx len tx rxb cap)) ∧
    (s.ctl.bh.valid = false → t.ctl.bh ≠ s.ctl.bh → ∃ src d w v, i = .busInit src d w v)

/-- CUR changes only by PUBLISH, and SHD only by TWRITE and by E_REGWR; so no transition of the engine
changes either bank (R134, R155 (a), (b), (f)). -/
def Obligations.BanksChangeOnlyByTheirWriters : Prop :=
  ∀ (i : Instr) (s t : State), exec i s = .next t →
    ((∀ address length, i ≠ .publish address length) → KeepsCur s t) ∧
    ((∀ address byte, i ≠ .tWrite address byte) → (∀ address byte, i ≠ .eRegWr address byte) →
      KeepsShd s t)

/-- Each register has the writers the state tables name and no other.  The Bus Handle: BUSINIT, DISPATCH; a
slot: BIND, SETDIV, UNBIND; DSEQ and LAT: DISPATCH, P_STATUS; XFER: P_STATUS; CS_LINES: BUSINIT, DISPATCH,
P_STATUS; PCFG: PINIT; ST: E_CS, E_DECODE, E_DONE, so no command; CS_SEEN and MALFORMED_COUNT: E_CS; the
arming: PINIT, E_CS, E_DONE; SESSION: E_CS, E_DONE; PRIM_CODE: E_DONE; ACT: DISPATCH, E_CS; of FLAGS,
EVT_ILLEGAL: none, EVT_UNEXPECTED: E_DECODE, E_DONE, E_REGWR, E_REGRD, P_STATUS, TBL_RANGE: E_REGWR, E_REGRD,
PRIM_ERR: E_DONE; the parameters and the input ports: none (R14 to R19, R22 to R27, R29 to R31, R121).
The last two clauses are the model's choice (log 18, DESIGN CHOICE, unsafe): BUF is no state of the block, and
of what R44 says of it the model makes that DISPATCH sets the rx buffer of the transfer and that the bytes
change with P_STATUS. -/
def Obligations.RegistersHaveTheirWriters : Prop :=
  ∀ (i : Instr) (s t : State), exec i s = .next t →
    let busInit := ∃ src d w v, i = .busInit src d w v
    let dispatch := ∃ slot rx len tx rxb cap, i = .dispatch slot rx len tx rxb cap
    let status := ∃ status, i = .pStatus status
    let pInit := ∃ l n c o, i = .pInit l n c o
    let edge := ∃ level, i = .eCs level
    let decode := i = .eDecodeW ∨ i = .eDecodeR ∨ i = .eDecodeRW
    let done := ∃ code, i = .eDone code
    let access := (∃ a b, i = .eRegWr a b) ∨ ∃ a, i = .eRegRd a
    (t.ctl.bh ≠ s.ctl.bh → busInit ∨ dispatch) ∧
    (∀ slot, t.profile? slot ≠ s.profile? slot →
      (∃ pin pol pha src d, i = .bind slot pin pol pha src d) ∨ (∃ src d, i = .setDiv slot src d) ∨
        i = .unbind slot) ∧
    (t.ctl.dseq ≠ s.ctl.dseq ∨ t.ctl.lat ≠ s.ctl.lat → dispatch ∨ status) ∧
    (t.ctl.xfer ≠ s.ctl.xfer → status) ∧
    (t.ctl.csLines ≠ s.ctl.csLines → busInit ∨ dispatch ∨ status) ∧
    (t.per.pcfg ≠ s.per.pcfg → pInit) ∧
    (t.per.st ≠ s.per.st → edge ∨ decode ∨ done) ∧
    (t.per.csSeen ≠ s.per.csSeen ∨ t.per.malformedCount ≠ s.per.malformedCount → edge) ∧
    (t.per.arm ≠ s.per.arm → pInit ∨ edge ∨ done) ∧
    (t.per.session ≠ s.per.session → edge ∨ done) ∧
    (t.per.primCode ≠ s.per.primCode → done) ∧
    (t.act ≠ s.act → dispatch ∨ edge) ∧
    t.flags.evtIllegal = s.flags.evtIllegal ∧
    (t.flags.evtUnexpected ≠ s.flags.evtUnexpected → decode ∨ done ∨ access ∨ status) ∧
    (t.flags.tblRange ≠ s.flags.tblRange → access) ∧
    (t.flags.primErr ≠ s.flags.primErr → done) ∧
    KeepsPorts s t ∧
    (t.buf.rxBase ≠ s.buf.rxBase ∨ t.buf.rxCapacity ≠ s.buf.rxCapacity → dispatch) ∧
    (∀ a, Memory.read t.buf.cells a ≠ Memory.read s.buf.cells a → status)

/-- The roles share no state: a step of the controller role leaves the peripheral role's state alone and
does not depend on it, and the other way round; the buffer space goes with the controller role (R184; FLAGS and ACT stand beside both roles, log 11). -/
def Obligations.RolesDoNotInterfere : Prop :=
  ∀ (i : Instr) (s₁ s₂ t₁ t₂ : State), exec i s₁ = .next t₁ → exec i s₂ = .next t₂ →
    s₁.params = s₂.params → s₁.now = s₂.now → s₁.draws = s₂.draws →
    (controllerStep i = true → t₁.per = s₁.per ∧
      (s₁.ctl = s₂.ctl → t₁.ctl = t₂.ctl ∧ t₁.out = t₂.out ∧ (s₁.buf = s₂.buf → t₁.buf = t₂.buf))) ∧
    (controllerStep i = false → t₁.ctl = s₁.ctl ∧ t₁.buf = s₁.buf ∧
      (s₁.per = s₂.per → t₁.per = t₂.per ∧ t₁.out = t₂.out))

/-- No rule reads an unspecified element: two states that meet the invariant and agree where the spec gives
a value still do so after a step (R34). -/
def Obligations.UnspecifiedElementsAreNeverRead : Prop :=
  ∀ s₁ s₂ t₁ t₂ : State, s₁.Inv → s₂.Inv → AgreeWhereSpecified s₁ s₂ →
    step s₁ = .next t₁ → step s₂ = .next t₂ → AgreeWhereSpecified t₁ t₂

/-! ## The buffer space; pseudo-operations -/

/-- When the completion of a transfer arrives, the primitive has filled the rx buffer, if one was requested
(R44): with status 0 each of the `length` bytes delivered stands in it, some byte.  Any other byte of it, up to
its capacity, all of it after a BusFault and all of it after a transfer of length 0, may be as it was or hold
some byte (R44, U8).  Outside it, and with none requested, no byte of BUF has changed.  Byte `k` stands `k`
after the base the DISPATCH passed on, modulo 2^32 (D44).  That State holds BUF and the rx buffer, that the
capacity the DISPATCH gave is the buffer's size, that nothing outside it changes and that addresses wrap to 0
is the model's choice (log 18: DESIGN CHOICE, the wrap DEDUCED; unsafe). -/
def Obligations.CompletionFillsTheReceiveBuffer : Prop :=
  (∀ (base : Word) (k : Nat), bufferAddress base k = (base.toNat + k) % 2 ^ 32) ∧
  ∀ (status : Word) (s : State), s.ctl.dseq = .wait →
    let inBuffer (a : Nat) := s.ctl.lat.rxReq = true ∧
      ∃ k, (k < s.ctl.lat.length.toNat ∨ k < s.buf.rxCapacity.toNat) ∧
        a = bufferAddress s.buf.rxBase k
    ∃ t, exec (.pStatus status) s = .next t ∧
      t.buf.rxBase = s.buf.rxBase ∧ t.buf.rxCapacity = s.buf.rxCapacity ∧
      (∀ a, ¬inBuffer a → Memory.read t.buf.cells a = Memory.read s.buf.cells a) ∧
      (status = 0 → s.ctl.lat.rxReq = true → ∀ k, k < s.ctl.lat.length.toNat →
        ∃ b, Memory.read t.buf.cells (bufferAddress s.buf.rxBase k) = some b) ∧
      (∀ a, inBuffer a →
        Memory.read t.buf.cells a = Memory.read s.buf.cells a ∨
          ∃ b, Memory.read t.buf.cells a = some b)

/-- WRITE issues a TWRITE a byte, at rising addresses, and stops at the first refusal (R76): with the engine
unconfigured nothing is written; else the bytes up to the end of the table are, and no other cell, so that
an address never wraps. -/
def Obligations.PseudoWriteStopsAtTheFirstRefusal : Prop :=
  ∀ (address : Word) (bytes : List Byte) (s : State), bytes ≠ [] →
    (s.per.pcfg.valid = false → execWrite address bytes s = .next (refused s .badState)) ∧
    (s.per.pcfg.valid = true →
      ∃ t, execWrite address bytes s = .next t ∧
        (∀ k b, bytes[k]? = some b → address.toNat + k < s.per.pcfg.tableLength.toNat →
          Memory.read t.per.shd (address.toNat + k) = some b) ∧
        (∀ a, ¬(address.toNat ≤ a ∧ a < address.toNat + bytes.length ∧
            a < s.per.pcfg.tableLength.toNat) →
          Memory.read t.per.shd a = Memory.read s.per.shd a) ∧
        (address.toNat + bytes.length ≤ s.per.pcfg.tableLength.toNat → Responds t .ok 0 0) ∧
        (s.per.pcfg.tableLength.toNat < address.toNat + bytes.length → Responds t .invalidRange 0 0) ∧
        KeepsCur s t ∧ KeepsEngine s t ∧ KeepsController s t ∧ KeepsShared s t ∧ KeepsSurroundings s t)
end

