-- ==== Sys2Proof/Laws/Decode.lean ====
section
/-! SUPPORT. The bits of encoded words, and what the opcode map says of one row: the lemmas a proof about the
decoder cites instead of taking words apart again.
-/

namespace Sys2Proof

/-- A bit of an index at a bit position. -/
theorem getLsbD_fieldAt {n pos i : Nat} (hi : i < 32) :
    (fieldAt n pos).getLsbD i = (decide (pos ≤ i) && n.testBit (i - pos)) := by
  have h' : i - pos < 32 := by omega
  rcases Nat.lt_or_ge i pos with h | h
  · simp [fieldAt, h, hi]
  · simp only [fieldAt, BitVec.getLsbD_shiftLeft, BitVec.getLsbD_ofNat]
    simp [hi, h', h, Nat.not_lt.mpr h]

/-- A bit of a word with one bit at a bit position. -/
theorem getLsbD_bitAt {b : Bool} {pos i : Nat} (hi : i < 32) :
    (bitAt b pos).getLsbD i = (b && decide (i = pos)) := by
  rw [bitAt, getLsbD_fieldAt hi]
  cases b
  · simp
  · rcases Nat.lt_trichotomy i pos with h | h | h
    · simp [Nat.not_le.mpr h, Nat.ne_of_lt h]
    · simp [h]
    · have h2 : i ≠ pos := by omega
      have h3 : i - pos ≠ 0 := by omega
      have h4 : Nat.testBit 1 (i - pos) = false := by
        rw [Bool.eq_false_iff, ne_eq, Nat.testBit_one_eq_true_iff_self_eq_zero]; exact h3
      simp [h2, h4]

/-- A field's index has no bit at or above the field's width. -/
theorem testBit_of_fitsField {n j : Nat} (h : fitsField n = true) (hj : 8 ≤ j) : n.testBit j = false := by
  have hn : n < 2 ^ 8 := by simpa [fitsField] using h
  exact Nat.testBit_lt_two_pow (Nat.lt_of_lt_of_le hn (Nat.pow_le_pow_right (by decide) hj))

/-- An 8-bit field of a word is the index whose bits it holds. -/
theorem extract_eq_of_bits {w : Word} {n pos : Nat} (hn : fitsField n = true)
    (h : ∀ j, j < 8 → w.getLsbD (pos + j) = n.testBit j) : (w.extractLsb' pos 8).toNat = n := by
  apply Nat.eq_of_testBit_eq
  intro j
  rw [BitVec.testBit_toNat, BitVec.getLsbD_extractLsb']
  rcases Nat.lt_or_ge j 8 with hj | hj
  · simp [hj, h j hj]
  · simp [Nat.not_lt.mpr hj, testBit_of_fitsField hn hj]

/-- Two words agree under a mask when their bits do wherever the mask has one. -/
theorem and_eq_of_bits {w m v : Word}
    (h : ∀ i, i < 32 → (w.getLsbD i && m.getLsbD i) = v.getLsbD i) : w &&& m = v := by
  apply BitVec.eq_of_getLsbD_eq
  intro i hi
  simpa using h i hi

/-- The bit a clock source is encoded by stands for it. -/
@[simp] theorem ClockSource.ofBit_bit (c : ClockSource) : ClockSource.ofBit c.bit = c := by cases c <;> rfl

@[simp] theorem ClockSource.bit_ofBit (b : Bool) : (ClockSource.ofBit b).bit = b := by cases b <;> rfl

/-- A byte operand survives its ARG word. -/
@[simp] theorem argByte_setWidth (b : Byte) : argByte (b.setWidth 32) = b := by
  simp [argByte, BitVec.setWidth_setWidth_of_le]

/-- The rows of the opcode map are disjoint: two rows differ in a bit both masks look at (R62). -/
theorem commandRows_disjoint :
    commandRows.Pairwise (fun r q => r.value &&& q.mask ≠ q.value &&& r.mask) := by
  decide

/-- The rows of the event map are disjoint (R68). -/
theorem eventRows_disjoint :
    eventRows.Pairwise (fun r q => r.value &&& q.mask ≠ q.value &&& r.mask) := by
  decide

/-- A command is decoded by a row its CMD word matches. -/
theorem decodeCommand_some {c : CommandWords} {i : Instr} (h : decodeCommand c = some i) :
    ∃ r ∈ commandRows, c.cmd &&& r.mask = r.value ∧ i = r.build c := by
  unfold decodeCommand at h
  cases hf : commandRows.find? (fun r => c.cmd &&& r.mask == r.value) with
  | none => simp [hf] at h
  | some r =>
    refine ⟨r, List.mem_of_find?_eq_some hf, ?_, ?_⟩
    · simpa using List.find?_some hf
    · simpa [hf] using h.symm

/-- An event is decoded by a row its EVT word matches. -/
theorem decodeEvent_some {e : EventWords} {i : Instr} (h : decodeEvent e = some i) :
    ∃ r ∈ eventRows, e.evt &&& r.mask = r.value ∧ i = r.build e := by
  unfold decodeEvent at h
  cases hf : eventRows.find? (fun r => e.evt &&& r.mask == r.value) with
  | none => simp [hf] at h
  | some r =>
    refine ⟨r, List.mem_of_find?_eq_some hf, ?_, ?_⟩
    · simpa using List.find?_some hf
    · simpa [hf] using h.symm

/-- The row a CMD word matches is the one it is decoded by. -/
theorem decodeCommand_of_row {c : CommandWords} {r : CommandRow} (hr : r ∈ commandRows)
    (h : c.cmd &&& r.mask = r.value) : decodeCommand c = some (r.build c) := by
  unfold decodeCommand
  cases hf : commandRows.find? (fun r => c.cmd &&& r.mask == r.value) with
  | none => exact absurd h (by simpa using List.find?_eq_none.mp hf r hr)
  | some q =>
    have hq : c.cmd &&& q.mask = q.value := by simpa using List.find?_some hf
    have hqr : q = r := by
      by_contra hne
      have : Std.Symm (fun r q : CommandRow => r.value &&& q.mask ≠ q.value &&& r.mask) :=
        ⟨fun _ _ h => Ne.symm h⟩
      have hd := commandRows_disjoint.forall (List.mem_of_find?_eq_some hf) hr hne
      apply hd
      rw [← hq, ← h, BitVec.and_assoc, BitVec.and_assoc, BitVec.and_comm q.mask]
    simp [hqr]

/-- The row an EVT word matches is the one it is decoded by. -/
theorem decodeEvent_of_row {e : EventWords} {r : EventRow} (hr : r ∈ eventRows)
    (h : e.evt &&& r.mask = r.value) : decodeEvent e = some (r.build e) := by
  unfold decodeEvent
  cases hf : eventRows.find? (fun r => e.evt &&& r.mask == r.value) with
  | none => exact absurd h (by simpa using List.find?_eq_none.mp hf r hr)
  | some q =>
    have hq : e.evt &&& q.mask = q.value := by simpa using List.find?_some hf
    have hqr : q = r := by
      by_contra hne
      have : Std.Symm (fun r q : EventRow => r.value &&& q.mask ≠ q.value &&& r.mask) :=
        ⟨fun _ _ h => Ne.symm h⟩
      have hd := eventRows_disjoint.forall (List.mem_of_find?_eq_some hf) hr hne
      apply hd
      rw [← hq, ← h, BitVec.and_assoc, BitVec.and_assoc, BitVec.and_comm q.mask]
    simp [hqr]

/-- A CMD word of no row is no command. -/
theorem decodeCommand_none {c : CommandWords} :
    decodeCommand c = none ↔ ∀ r ∈ commandRows, c.cmd &&& r.mask ≠ r.value := by
  simp [decodeCommand]

/-- An EVT word of no row is no event. -/
theorem decodeEvent_none {e : EventWords} :
    decodeEvent e = none ↔ ∀ r ∈ eventRows, e.evt &&& r.mask ≠ r.value := by
  simp [decodeEvent]

end Sys2Proof
end

