-- ==== Sys2Proof/Laws/State.lean ====
section
/-! SUPPORT. One lemma a field for each update of the state: what an operation leaves alone is found by
`simp`, and no proof unfolds a record update.
-/

namespace Sys2Proof.Machine.State

/-! The response port is all a response changes. -/

@[simp] theorem respond_params (s : State) (e : ErrorCode) (a b : Word) : (s.respond e a b).params = s.params := rfl
@[simp] theorem respond_ctl (s : State) (e : ErrorCode) (a b : Word) : (s.respond e a b).ctl = s.ctl := rfl
@[simp] theorem respond_per (s : State) (e : ErrorCode) (a b : Word) : (s.respond e a b).per = s.per := rfl
@[simp] theorem respond_flags (s : State) (e : ErrorCode) (a b : Word) : (s.respond e a b).flags = s.flags := rfl
@[simp] theorem respond_act (s : State) (e : ErrorCode) (a b : Word) : (s.respond e a b).act = s.act := rfl
@[simp] theorem respond_now (s : State) (e : ErrorCode) (a b : Word) : (s.respond e a b).now = s.now := rfl
@[simp] theorem respond_later (s : State) (e : ErrorCode) (a b : Word) : (s.respond e a b).later = s.later := rfl
@[simp] theorem respond_buf (s : State) (e : ErrorCode) (a b : Word) : (s.respond e a b).buf = s.buf := rfl
@[simp] theorem respond_draws (s : State) (e : ErrorCode) (a b : Word) : (s.respond e a b).draws = s.draws := rfl
@[simp] theorem respond_out (s : State) (e : ErrorCode) (a b : Word) : (s.respond e a b).out = .response { err := e, res0 := a, res1 := b } := rfl

/-! A refusal changes nothing but the response port (R170). -/

@[simp] theorem refuse_params (s : State) (e : ErrorCode) : (s.refuse e).params = s.params := rfl
@[simp] theorem refuse_ctl (s : State) (e : ErrorCode) : (s.refuse e).ctl = s.ctl := rfl
@[simp] theorem refuse_per (s : State) (e : ErrorCode) : (s.refuse e).per = s.per := rfl
@[simp] theorem refuse_flags (s : State) (e : ErrorCode) : (s.refuse e).flags = s.flags := rfl
@[simp] theorem refuse_act (s : State) (e : ErrorCode) : (s.refuse e).act = s.act := rfl
@[simp] theorem refuse_now (s : State) (e : ErrorCode) : (s.refuse e).now = s.now := rfl
@[simp] theorem refuse_later (s : State) (e : ErrorCode) : (s.refuse e).later = s.later := rfl
@[simp] theorem refuse_buf (s : State) (e : ErrorCode) : (s.refuse e).buf = s.buf := rfl
@[simp] theorem refuse_draws (s : State) (e : ErrorCode) : (s.refuse e).draws = s.draws := rfl
@[simp] theorem refuse_out (s : State) (e : ErrorCode) : (s.refuse e).out = .response { err := e, res0 := 0, res1 := 0 } := rfl

/-! A quiet step changes nothing but the ports' contents. -/

@[simp] theorem quiet_params (s : State) : (s.quiet).params = s.params := rfl
@[simp] theorem quiet_ctl (s : State) : (s.quiet).ctl = s.ctl := rfl
@[simp] theorem quiet_per (s : State) : (s.quiet).per = s.per := rfl
@[simp] theorem quiet_flags (s : State) : (s.quiet).flags = s.flags := rfl
@[simp] theorem quiet_act (s : State) : (s.quiet).act = s.act := rfl
@[simp] theorem quiet_now (s : State) : (s.quiet).now = s.now := rfl
@[simp] theorem quiet_later (s : State) : (s.quiet).later = s.later := rfl
@[simp] theorem quiet_buf (s : State) : (s.quiet).buf = s.buf := rfl
@[simp] theorem quiet_draws (s : State) : (s.quiet).draws = s.draws := rfl
@[simp] theorem quiet_out (s : State) : (s.quiet).out = .quiet := rfl

/-! A reply changes nothing but ERESP. -/

@[simp] theorem reply_params (s : State) (b : Byte) : (s.reply b).params = s.params := rfl
@[simp] theorem reply_ctl (s : State) (b : Byte) : (s.reply b).ctl = s.ctl := rfl
@[simp] theorem reply_per (s : State) (b : Byte) : (s.reply b).per = s.per := rfl
@[simp] theorem reply_flags (s : State) (b : Byte) : (s.reply b).flags = s.flags := rfl
@[simp] theorem reply_act (s : State) (b : Byte) : (s.reply b).act = s.act := rfl
@[simp] theorem reply_now (s : State) (b : Byte) : (s.reply b).now = s.now := rfl
@[simp] theorem reply_later (s : State) (b : Byte) : (s.reply b).later = s.later := rfl
@[simp] theorem reply_buf (s : State) (b : Byte) : (s.reply b).buf = s.buf := rfl
@[simp] theorem reply_draws (s : State) (b : Byte) : (s.reply b).draws = s.draws := rfl
@[simp] theorem reply_out (s : State) (b : Byte) : (s.reply b).out = .eresp b := rfl

/-! An action is appended to ACT and nothing else changes. -/

@[simp] theorem emit_params (s : State) (a : Action) : (s.emit a).params = s.params := rfl
@[simp] theorem emit_ctl (s : State) (a : Action) : (s.emit a).ctl = s.ctl := rfl
@[simp] theorem emit_per (s : State) (a : Action) : (s.emit a).per = s.per := rfl
@[simp] theorem emit_flags (s : State) (a : Action) : (s.emit a).flags = s.flags := rfl
@[simp] theorem emit_act (s : State) (a : Action) : (s.emit a).act = s.act ++ [a] := rfl
@[simp] theorem emit_now (s : State) (a : Action) : (s.emit a).now = s.now := rfl
@[simp] theorem emit_later (s : State) (a : Action) : (s.emit a).later = s.later := rfl
@[simp] theorem emit_buf (s : State) (a : Action) : (s.emit a).buf = s.buf := rfl
@[simp] theorem emit_draws (s : State) (a : Action) : (s.emit a).draws = s.draws := rfl
@[simp] theorem emit_out (s : State) (a : Action) : (s.emit a).out = s.out := rfl

/-! Draws change their counter alone. -/

@[simp] theorem drawnBy_params (s : State) (n : Nat) : (s.drawnBy n).params = s.params := rfl
@[simp] theorem drawnBy_ctl (s : State) (n : Nat) : (s.drawnBy n).ctl = s.ctl := rfl
@[simp] theorem drawnBy_per (s : State) (n : Nat) : (s.drawnBy n).per = s.per := rfl
@[simp] theorem drawnBy_flags (s : State) (n : Nat) : (s.drawnBy n).flags = s.flags := rfl
@[simp] theorem drawnBy_act (s : State) (n : Nat) : (s.drawnBy n).act = s.act := rfl
@[simp] theorem drawnBy_now (s : State) (n : Nat) : (s.drawnBy n).now = s.now := rfl
@[simp] theorem drawnBy_later (s : State) (n : Nat) : (s.drawnBy n).later = s.later := rfl
@[simp] theorem drawnBy_buf (s : State) (n : Nat) : (s.drawnBy n).buf = s.buf := rfl
@[simp] theorem drawnBy_draws (s : State) (n : Nat) : (s.drawnBy n).draws = s.draws + n := rfl
@[simp] theorem drawnBy_out (s : State) (n : Nat) : (s.drawnBy n).out = s.out := rfl

/-! A draw changes the counter of draws alone. -/

@[simp] theorem drawn_params (s : State) : (s.drawn).params = s.params := rfl
@[simp] theorem drawn_ctl (s : State) : (s.drawn).ctl = s.ctl := rfl
@[simp] theorem drawn_per (s : State) : (s.drawn).per = s.per := rfl
@[simp] theorem drawn_flags (s : State) : (s.drawn).flags = s.flags := rfl
@[simp] theorem drawn_act (s : State) : (s.drawn).act = s.act := rfl
@[simp] theorem drawn_now (s : State) : (s.drawn).now = s.now := rfl
@[simp] theorem drawn_later (s : State) : (s.drawn).later = s.later := rfl
@[simp] theorem drawn_buf (s : State) : (s.drawn).buf = s.buf := rfl
@[simp] theorem drawn_draws (s : State) : (s.drawn).draws = s.draws + 1 := rfl
@[simp] theorem drawn_out (s : State) : (s.drawn).out = s.out := rfl

/-! The controller role's part. -/

@[simp] theorem setCtl_params (s : State) (c : Controller) : (s.setCtl c).params = s.params := rfl
@[simp] theorem setCtl_ctl (s : State) (c : Controller) : (s.setCtl c).ctl = c := rfl
@[simp] theorem setCtl_per (s : State) (c : Controller) : (s.setCtl c).per = s.per := rfl
@[simp] theorem setCtl_flags (s : State) (c : Controller) : (s.setCtl c).flags = s.flags := rfl
@[simp] theorem setCtl_act (s : State) (c : Controller) : (s.setCtl c).act = s.act := rfl
@[simp] theorem setCtl_now (s : State) (c : Controller) : (s.setCtl c).now = s.now := rfl
@[simp] theorem setCtl_later (s : State) (c : Controller) : (s.setCtl c).later = s.later := rfl
@[simp] theorem setCtl_buf (s : State) (c : Controller) : (s.setCtl c).buf = s.buf := rfl
@[simp] theorem setCtl_draws (s : State) (c : Controller) : (s.setCtl c).draws = s.draws := rfl
@[simp] theorem setCtl_out (s : State) (c : Controller) : (s.setCtl c).out = s.out := rfl

/-! The peripheral role's part. -/

@[simp] theorem setPer_params (s : State) (p : Peripheral) : (s.setPer p).params = s.params := rfl
@[simp] theorem setPer_ctl (s : State) (p : Peripheral) : (s.setPer p).ctl = s.ctl := rfl
@[simp] theorem setPer_per (s : State) (p : Peripheral) : (s.setPer p).per = p := rfl
@[simp] theorem setPer_flags (s : State) (p : Peripheral) : (s.setPer p).flags = s.flags := rfl
@[simp] theorem setPer_act (s : State) (p : Peripheral) : (s.setPer p).act = s.act := rfl
@[simp] theorem setPer_now (s : State) (p : Peripheral) : (s.setPer p).now = s.now := rfl
@[simp] theorem setPer_later (s : State) (p : Peripheral) : (s.setPer p).later = s.later := rfl
@[simp] theorem setPer_buf (s : State) (p : Peripheral) : (s.setPer p).buf = s.buf := rfl
@[simp] theorem setPer_draws (s : State) (p : Peripheral) : (s.setPer p).draws = s.draws := rfl
@[simp] theorem setPer_out (s : State) (p : Peripheral) : (s.setPer p).out = s.out := rfl

/-! The buffer space. -/

@[simp] theorem setBuf_params (s : State) (b : BufferSpace) : (s.setBuf b).params = s.params := rfl
@[simp] theorem setBuf_ctl (s : State) (b : BufferSpace) : (s.setBuf b).ctl = s.ctl := rfl
@[simp] theorem setBuf_per (s : State) (b : BufferSpace) : (s.setBuf b).per = s.per := rfl
@[simp] theorem setBuf_flags (s : State) (b : BufferSpace) : (s.setBuf b).flags = s.flags := rfl
@[simp] theorem setBuf_act (s : State) (b : BufferSpace) : (s.setBuf b).act = s.act := rfl
@[simp] theorem setBuf_now (s : State) (b : BufferSpace) : (s.setBuf b).now = s.now := rfl
@[simp] theorem setBuf_later (s : State) (b : BufferSpace) : (s.setBuf b).later = s.later := rfl
@[simp] theorem setBuf_buf (s : State) (b : BufferSpace) : (s.setBuf b).buf = b := rfl
@[simp] theorem setBuf_draws (s : State) (b : BufferSpace) : (s.setBuf b).draws = s.draws := rfl
@[simp] theorem setBuf_out (s : State) (b : BufferSpace) : (s.setBuf b).out = s.out := rfl

/-! FLAGS.EVT_ILLEGAL alone is set. -/

@[simp] theorem flagIllegal_params (s : State) : (s.flagIllegal).params = s.params := rfl
@[simp] theorem flagIllegal_ctl (s : State) : (s.flagIllegal).ctl = s.ctl := rfl
@[simp] theorem flagIllegal_per (s : State) : (s.flagIllegal).per = s.per := rfl
@[simp] theorem flagIllegal_flags (s : State) : (s.flagIllegal).flags = { s.flags with evtIllegal := true } := rfl
@[simp] theorem flagIllegal_act (s : State) : (s.flagIllegal).act = s.act := rfl
@[simp] theorem flagIllegal_now (s : State) : (s.flagIllegal).now = s.now := rfl
@[simp] theorem flagIllegal_later (s : State) : (s.flagIllegal).later = s.later := rfl
@[simp] theorem flagIllegal_buf (s : State) : (s.flagIllegal).buf = s.buf := rfl
@[simp] theorem flagIllegal_draws (s : State) : (s.flagIllegal).draws = s.draws := rfl
@[simp] theorem flagIllegal_out (s : State) : (s.flagIllegal).out = s.out := rfl

/-! FLAGS.EVT_UNEXPECTED alone is set. -/

@[simp] theorem flagUnexpected_params (s : State) : (s.flagUnexpected).params = s.params := rfl
@[simp] theorem flagUnexpected_ctl (s : State) : (s.flagUnexpected).ctl = s.ctl := rfl
@[simp] theorem flagUnexpected_per (s : State) : (s.flagUnexpected).per = s.per := rfl
@[simp] theorem flagUnexpected_flags (s : State) : (s.flagUnexpected).flags = { s.flags with evtUnexpected := true } := rfl
@[simp] theorem flagUnexpected_act (s : State) : (s.flagUnexpected).act = s.act := rfl
@[simp] theorem flagUnexpected_now (s : State) : (s.flagUnexpected).now = s.now := rfl
@[simp] theorem flagUnexpected_later (s : State) : (s.flagUnexpected).later = s.later := rfl
@[simp] theorem flagUnexpected_buf (s : State) : (s.flagUnexpected).buf = s.buf := rfl
@[simp] theorem flagUnexpected_draws (s : State) : (s.flagUnexpected).draws = s.draws := rfl
@[simp] theorem flagUnexpected_out (s : State) : (s.flagUnexpected).out = s.out := rfl

/-! FLAGS.TBL_RANGE alone is set. -/

@[simp] theorem flagRange_params (s : State) : (s.flagRange).params = s.params := rfl
@[simp] theorem flagRange_ctl (s : State) : (s.flagRange).ctl = s.ctl := rfl
@[simp] theorem flagRange_per (s : State) : (s.flagRange).per = s.per := rfl
@[simp] theorem flagRange_flags (s : State) : (s.flagRange).flags = { s.flags with tblRange := true } := rfl
@[simp] theorem flagRange_act (s : State) : (s.flagRange).act = s.act := rfl
@[simp] theorem flagRange_now (s : State) : (s.flagRange).now = s.now := rfl
@[simp] theorem flagRange_later (s : State) : (s.flagRange).later = s.later := rfl
@[simp] theorem flagRange_buf (s : State) : (s.flagRange).buf = s.buf := rfl
@[simp] theorem flagRange_draws (s : State) : (s.flagRange).draws = s.draws := rfl
@[simp] theorem flagRange_out (s : State) : (s.flagRange).out = s.out := rfl

/-! FLAGS.PRIM_ERR alone is set. -/

@[simp] theorem flagPrimErr_params (s : State) : (s.flagPrimErr).params = s.params := rfl
@[simp] theorem flagPrimErr_ctl (s : State) : (s.flagPrimErr).ctl = s.ctl := rfl
@[simp] theorem flagPrimErr_per (s : State) : (s.flagPrimErr).per = s.per := rfl
@[simp] theorem flagPrimErr_flags (s : State) : (s.flagPrimErr).flags = { s.flags with primErr := true } := rfl
@[simp] theorem flagPrimErr_act (s : State) : (s.flagPrimErr).act = s.act := rfl
@[simp] theorem flagPrimErr_now (s : State) : (s.flagPrimErr).now = s.now := rfl
@[simp] theorem flagPrimErr_later (s : State) : (s.flagPrimErr).later = s.later := rfl
@[simp] theorem flagPrimErr_buf (s : State) : (s.flagPrimErr).buf = s.buf := rfl
@[simp] theorem flagPrimErr_draws (s : State) : (s.flagPrimErr).draws = s.draws := rfl
@[simp] theorem flagPrimErr_out (s : State) : (s.flagPrimErr).out = s.out := rfl

/-! The inputs left at the present moment. -/

@[simp] theorem withPresented_params (s : State) (l : List Input) : (s.withPresented l).params = s.params := rfl
@[simp] theorem withPresented_ctl (s : State) (l : List Input) : (s.withPresented l).ctl = s.ctl := rfl
@[simp] theorem withPresented_per (s : State) (l : List Input) : (s.withPresented l).per = s.per := rfl
@[simp] theorem withPresented_flags (s : State) (l : List Input) : (s.withPresented l).flags = s.flags := rfl
@[simp] theorem withPresented_act (s : State) (l : List Input) : (s.withPresented l).act = s.act := rfl
@[simp] theorem withPresented_now (s : State) (l : List Input) : (s.withPresented l).now = { s.now with presented := l } := rfl
@[simp] theorem withPresented_later (s : State) (l : List Input) : (s.withPresented l).later = s.later := rfl
@[simp] theorem withPresented_buf (s : State) (l : List Input) : (s.withPresented l).buf = s.buf := rfl
@[simp] theorem withPresented_draws (s : State) (l : List Input) : (s.withPresented l).draws = s.draws := rfl
@[simp] theorem withPresented_out (s : State) (l : List Input) : (s.withPresented l).out = s.out := rfl

end Sys2Proof.Machine.State
end

