-- ==== Sys2Proof/Laws/Ops.lean ====
section
/-! SUPPORT. What each shared operation can do, said once: data by key and its canonical form, checks and
refusals, reconciliation, the arbiter of the input ports.
-/

namespace Sys2Proof.Machine

variable {α : Type}

/-! ## Data by key -/

@[simp] theorem lookupKey_nil (a : Nat) : lookupKey ([] : Sparse α) a = none := rfl

theorem lookupKey_cons (k a : Nat) (v : α) (l : Sparse α) :
    lookupKey ((k, v) :: l) a = if k = a then some v else lookupKey l a := rfl

/-- Read after write at the same key. -/
@[simp] theorem lookupKey_setKey_same (l : Sparse α) (a : Nat) (v : α) :
    lookupKey (setKey l a v) a = some v := by
  induction l with
  | nil => simp [setKey, lookupKey]
  | cons e l ih =>
    obtain ⟨k, w⟩ := e
    by_cases h1 : a < k
    · simp [setKey, h1, lookupKey]
    · by_cases h2 : a = k
      · simp [setKey, h2, lookupKey]
      · simp [setKey, h1, h2, lookupKey, Ne.symm h2, ih]

/-- A write leaves every other key alone. -/
@[simp] theorem lookupKey_setKey_other (l : Sparse α) {a b : Nat} (v : α) (h : b ≠ a) :
    lookupKey (setKey l a v) b = lookupKey l b := by
  induction l with
  | nil => simp [setKey, lookupKey, Ne.symm h]
  | cons e l ih =>
    obtain ⟨k, w⟩ := e
    by_cases h1 : a < k
    · simp [setKey, h1, lookupKey, Ne.symm h]
    · by_cases h2 : a = k
      · subst h2; simp [setKey, lookupKey, Ne.symm h]
      · simp [setKey, h1, h2, lookupKey, ih]

theorem lookupKey_append (l m : Sparse α) (a : Nat) :
    lookupKey (l ++ m) a = (lookupKey l a).or (lookupKey m a) := by
  induction l with
  | nil => simp
  | cons e l ih =>
    obtain ⟨k, w⟩ := e
    by_cases h : k = a <;> simp [lookupKey, h, ih]

/-- Filtering by key keeps the keys that pass and drops the rest. -/
theorem lookupKey_filter (p : Nat → Bool) (l : Sparse α) (a : Nat) :
    lookupKey (l.filter fun e => p e.1) a = if p a then lookupKey l a else none := by
  induction l with
  | nil => simp
  | cons e l ih =>
    obtain ⟨k, w⟩ := e
    by_cases hp : p k
    · by_cases h : k = a
      · subst h; simp [hp, lookupKey]
      · simp [hp, lookupKey, h, ih]
    · by_cases h : k = a
      · subst h; simp [hp, ih]
      · simp [hp, lookupKey, h, ih]

/-- An erased key holds no value; the others are as before. -/
@[simp] theorem lookupKey_eraseKey (l : Sparse α) (a b : Nat) :
    lookupKey (eraseKey l a) b = if b = a then none else lookupKey l b := by
  have h := lookupKey_filter (fun k => decide (k ≠ a)) l b
  by_cases hb : b = a <;> simp_all [eraseKey]

/-- A copied range reads as the source, everything else as before (R152, R155). -/
theorem lookupKey_copyRange (src dst : Sparse α) (lo n a : Nat) :
    lookupKey (copyRange src dst lo n) a =
      if lo ≤ a ∧ a < lo + n then lookupKey src a else lookupKey dst a := by
  have h1 := lookupKey_filter (fun k => decide (k < lo)) dst a
  have h2 := lookupKey_filter (fun k => decide (lo ≤ k) && decide (k < lo + n)) src a
  have h3 := lookupKey_filter (fun k => decide (lo + n ≤ k)) dst a
  simp only [copyRange, slice, lookupKey_append, h1, h2, h3]
  by_cases ha : a < lo
  · have : ¬ lo ≤ a := by omega
    have : ¬ lo + n ≤ a := by omega
    simp [*]
  · by_cases hb : a < lo + n
    · have : lo ≤ a := by omega
      have : ¬ lo + n ≤ a := by omega
      simp [*]
    · have : lo ≤ a := by omega
      have : lo + n ≤ a := by omega
      simp [*]

/-! ## The canonical form -/

theorem rising_cons (k : Nat) (v : α) (l : Sparse α) :
    rising ((k, v) :: l) = true ↔ (∀ e ∈ l, k < e.1) ∧ rising l = true := by
  simp [rising]

theorem mem_setKey {l : Sparse α} {a : Nat} {v : α} {e : Nat × α} (h : e ∈ setKey l a v) :
    e = (a, v) ∨ e ∈ l := by
  induction l with
  | nil => simpa [setKey] using h
  | cons d l ih =>
    obtain ⟨k, w⟩ := d
    unfold setKey at h
    split at h
    · simpa using h
    · split at h
      · rcases List.mem_cons.mp h with h | h
        · exact .inl h
        · exact .inr (List.mem_cons_of_mem _ h)
      · rcases List.mem_cons.mp h with h | h
        · exact .inr (h ▸ List.mem_cons_self)
        · rcases ih h with h | h
          · exact .inl h
          · exact .inr (List.mem_cons_of_mem _ h)

/-- A write keeps the canonical form. -/
theorem rising_setKey {l : Sparse α} (a : Nat) (v : α) (h : rising l = true) :
    rising (setKey l a v) = true := by
  induction l with
  | nil => simp [setKey, rising]
  | cons d l ih =>
    obtain ⟨k, w⟩ := d
    obtain ⟨hk, hl⟩ := (rising_cons k w l).mp h
    unfold setKey
    split
    · rename_i hak
      refine (rising_cons _ _ _).mpr ⟨?_, h⟩
      intro e he
      rcases List.mem_cons.mp he with he | he
      · simpa [he] using hak
      · exact Nat.lt_trans hak (hk e he)
    · split
      · rename_i _ hak
        subst hak
        exact (rising_cons _ _ _).mpr ⟨hk, hl⟩
      · rename_i hak hne
        refine (rising_cons _ _ _).mpr ⟨?_, ih hl⟩
        intro e he
        rcases mem_setKey he with he | he
        · subst he; simp only; omega
        · exact hk e he

theorem rising_filter {l : Sparse α} (p : Nat × α → Bool) (h : rising l = true) :
    rising (l.filter p) = true := by
  induction l with
  | nil => simpa using h
  | cons d l ih =>
    obtain ⟨k, w⟩ := d
    obtain ⟨hk, hl⟩ := (rising_cons k w l).mp h
    by_cases hp : p (k, w) = true
    · rw [List.filter_cons_of_pos hp]
      exact (rising_cons _ _ _).mpr ⟨fun e he => hk e (List.mem_of_mem_filter he), ih hl⟩
    · rw [List.filter_cons_of_neg hp]
      exact ih hl

theorem rising_append {l m : Sparse α} (hl : rising l = true) (hm : rising m = true)
    (h : ∀ e ∈ l, ∀ f ∈ m, e.1 < f.1) : rising (l ++ m) = true := by
  induction l with
  | nil => simpa using hm
  | cons d l ih =>
    obtain ⟨k, w⟩ := d
    obtain ⟨hk, hl'⟩ := (rising_cons k w l).mp hl
    refine (rising_cons _ _ _).mpr ⟨?_, ih hl' fun e he => h e (List.mem_cons_of_mem _ he)⟩
    intro e he
    rcases List.mem_append.mp he with he | he
    · exact hk e he
    · exact h _ List.mem_cons_self e he

/-- Erasing a key keeps the canonical form. -/
theorem rising_eraseKey {l : Sparse α} (a : Nat) (h : rising l = true) : rising (eraseKey l a) = true :=
  rising_filter _ h

/-- Copying a range keeps the canonical form. -/
theorem rising_copyRange {src dst : Sparse α} (lo n : Nat) (hs : rising src = true)
    (hd : rising dst = true) : rising (copyRange src dst lo n) = true := by
  unfold copyRange slice
  refine rising_append (rising_append (rising_filter _ hd) (rising_filter _ hs) ?_) (rising_filter _ hd) ?_
  · intro e he f hf
    simp only [List.mem_filter, decide_eq_true_eq, Bool.and_eq_true] at he hf
    omega
  · intro e he f hf
    simp only [List.mem_append, List.mem_filter, decide_eq_true_eq, Bool.and_eq_true] at he hf
    omega

/-- A write keeps every key below a bound the written key respects. -/
theorem keysBelow_setKey {n : Nat} {l : Sparse α} {a : Nat} (v : α) (ha : a < n)
    (h : keysBelow n l = true) : keysBelow n (setKey l a v) = true := by
  simp only [keysBelow, List.all_eq_true, decide_eq_true_eq] at *
  intro e he
  rcases mem_setKey he with he | he
  · simpa [he] using ha
  · exact h e he

theorem keysBelow_filter {n : Nat} {l : Sparse α} (p : Nat × α → Bool) (h : keysBelow n l = true) :
    keysBelow n (l.filter p) = true := by
  simp only [keysBelow, List.all_eq_true, decide_eq_true_eq] at *
  exact fun e he => h e (List.mem_of_mem_filter he)

theorem keysBelow_eraseKey {n : Nat} {l : Sparse α} (a : Nat) (h : keysBelow n l = true) :
    keysBelow n (eraseKey l a) = true := keysBelow_filter _ h

theorem keysBelow_copyRange {n : Nat} {src dst : Sparse α} (lo k : Nat) (hs : keysBelow n src = true)
    (hd : keysBelow n dst = true) : keysBelow n (copyRange src dst lo k) = true := by
  have h1 := keysBelow_filter (fun e => decide (e.1 < lo)) hd
  have h2 := keysBelow_filter (fun e => decide (lo ≤ e.1) && decide (e.1 < lo + k)) hs
  have h3 := keysBelow_filter (fun e => decide (lo + k ≤ e.1)) hd
  simp only [keysBelow, List.all_eq_true] at *
  intro e he
  simp only [copyRange, slice, List.mem_append] at he
  rcases he with (he | he) | he
  · exact h1 e he
  · exact h2 e he
  · exact h3 e he

/-! ## The buffer space (R44) -/

/-- A buffer address is one of the 2^32 of BUF. -/
theorem bufferAddress_lt (base : Word) (k : Nat) : bufferAddress base k < 2 ^ 32 := (base + _).isLt

/-- Two bytes of one buffer stand at different addresses. -/
theorem bufferAddress_inj {base : Word} {j k : Nat} (hj : j < 2 ^ 32) (hk : k < 2 ^ 32)
    (h : bufferAddress base j = bufferAddress base k) : j = k := by
  have h2 : BitVec.ofNat 32 j = BitVec.ofNat 32 k := (BitVec.add_right_inj base).mp (BitVec.eq_of_toNat_eq h)
  have h3 := congrArg BitVec.toNat h2
  rwa [BitVec.toNat_ofNat, BitVec.toNat_ofNat, Nat.mod_eq_of_lt hj, Nat.mod_eq_of_lt hk] at h3

/-- A property every write keeps, a list of writes keeps. -/
theorem storeBytes_induction {P : Memory → Prop} (hset : ∀ (m : Memory) (a : Word) b, P m → P (setKey m a.toNat b)) :
    ∀ (writes : List (Word × Byte)) (m : Memory), P m → P (storeBytes writes m)
  | [], _, h => h
  | (a, b) :: writes, m, h => storeBytes_induction hset writes _ (hset m a b h)

/-- A property every write keeps, the primitive's writes keep. -/
theorem receiveBytes_induction {P : Memory → Prop} {sure : Nat} {base : Word} {k : Nat}
    (hset : ∀ m j b, P m → P (setKey m (bufferAddress base j) b)) {m : Memory} (h : P m) (n : Nat) :
    P (receiveBytes sure base k n m) := by
  induction n with
  | zero => exact h
  | succ n ih =>
    simp only [receiveBytes]
    split
    · exact hset _ _ _ ih
    · exact ih

theorem rising_storeBytes (writes : List (Word × Byte)) {m : Memory} (h : rising m = true) :
    rising (storeBytes writes m) = true :=
  storeBytes_induction (P := fun m => rising m = true) (fun _ _ _ hm => rising_setKey _ _ hm) writes m h

theorem keysBelow_storeBytes (writes : List (Word × Byte)) {m : Memory} (h : keysBelow (2 ^ 32) m = true) :
    keysBelow (2 ^ 32) (storeBytes writes m) = true :=
  storeBytes_induction (P := fun m => keysBelow (2 ^ 32) m = true)
    (fun _ a _ hm => keysBelow_setKey _ a.isLt hm) writes m h

theorem rising_receiveBytes {sure : Nat} {base : Word} {k : Nat} (n : Nat) {m : Memory}
    (h : rising m = true) : rising (receiveBytes sure base k n m) = true :=
  receiveBytes_induction (P := fun m => rising m = true) (fun _ _ _ hm => rising_setKey _ _ hm) h n

theorem keysBelow_receiveBytes {sure : Nat} {base : Word} {k : Nat} (n : Nat) {m : Memory}
    (h : keysBelow (2 ^ 32) m = true) : keysBelow (2 ^ 32) (receiveBytes sure base k n m) = true :=
  receiveBytes_induction (P := fun m => keysBelow (2 ^ 32) m = true)
    (fun _ j _ hm => keysBelow_setKey _ (bufferAddress_lt base j) hm) h n

/-- An address nothing is stored at reads as before. -/
theorem lookupKey_storeBytes_other (writes : List (Word × Byte)) (m : Memory) {a : Nat}
    (h : ∀ w ∈ writes, w.1.toNat ≠ a) : lookupKey (storeBytes writes m) a = lookupKey m a := by
  induction writes generalizing m with
  | nil => rfl
  | cons w writes ih =>
    obtain ⟨x, b⟩ := w
    rw [storeBytes, ih _ fun y hy => h y (List.mem_cons_of_mem _ hy),
      lookupKey_setKey_other _ _ (h (x, b) List.mem_cons_self).symm]

/-- Of the bytes stored at an address the last one counts. -/
theorem lookupKey_storeBytes_last (before after : List (Word × Byte)) (m : Memory) {x : Word} {b : Byte}
    (h : ∀ w ∈ after, w.1 ≠ x) :
    lookupKey (storeBytes (before ++ (x, b) :: after) m) x.toNat = some b := by
  induction before generalizing m with
  | nil =>
    rw [List.nil_append, storeBytes, lookupKey_storeBytes_other, lookupKey_setKey_same]
    exact fun w hw he => h w hw (BitVec.eq_of_toNat_eq he)
  | cons w before ih => exact ih _

/-- Outside the buffer every byte is as before. -/
theorem lookupKey_receiveBytes_other {sure : Nat} {base : Word} {k a : Nat} (n : Nat) (m : Memory)
    (h : ∀ j < n, a ≠ bufferAddress base j) :
    lookupKey (receiveBytes sure base k n m) a = lookupKey m a := by
  induction n with
  | zero => rfl
  | succ n ih =>
    have hn := ih fun j hj => h j (by omega)
    simp only [receiveBytes]
    split
    · rw [lookupKey_setKey_other _ _ (h n (by omega)), hn]
    · exact hn

/-- Inside it, a byte is the drawn one, or, where it is not surely written, may be as before. -/
theorem lookupKey_receiveBytes_same {sure : Nat} {base : Word} {k j : Nat} {n : Nat} (m : Memory)
    (hn : n ≤ 2 ^ 32) (hj : j < n) :
    lookupKey (receiveBytes sure base k n m) (bufferAddress base j) =
      if decide (j < sure) || Config.freeBool (k + j) then some (Config.freeByte (k + j))
      else lookupKey m (bufferAddress base j) := by
  induction n with
  | zero => omega
  | succ n ih =>
    simp only [receiveBytes]
    rcases Nat.lt_or_ge j n with h | h
    · have hne : bufferAddress base j ≠ bufferAddress base n := fun he => by
        have := bufferAddress_inj (by omega) (by omega) he
        omega
      split
      · rw [lookupKey_setKey_other _ _ hne, ih (by omega) h]
      · exact ih (by omega) h
    · obtain rfl : j = n := by omega
      split
      · rw [lookupKey_setKey_same]
      · refine lookupKey_receiveBytes_other j m fun i hi he => ?_
        have := bufferAddress_inj (by omega) (by omega) he
        omega

/-! ## Checks and refusals -/

@[simp] theorem firstError_nil : firstError [] = none := rfl

theorem firstError_cons (b : Bool) (e : ErrorCode) (l : List Check) :
    firstError ((b, e) :: l) = if b then some e else firstError l := rfl

/-- No check fails exactly when every one of them passes. -/
theorem firstError_eq_none (l : List Check) : firstError l = none ↔ ∀ c ∈ l, c.1 = false := by
  induction l with
  | nil => simp
  | cons c l ih =>
    obtain ⟨b, e⟩ := c
    cases b <;> simp [firstError, ih]

/-- The error reported is that of a check that fails. -/
theorem firstError_some {l : List Check} {e : ErrorCode} (h : firstError l = some e) : (true, e) ∈ l := by
  induction l with
  | nil => simp at h
  | cons c l ih =>
    obtain ⟨b, d⟩ := c
    cases b
    · exact List.mem_cons_of_mem _ (ih (by simpa [firstError] using h))
    · have : d = e := by simpa [firstError] using h
      simp [this]

/-- A checked command ends in one of two ways: the refusal of a failed check, or its effect. -/
theorem accept_cases (s : State) (checks : List Check) (done : State) :
    (∃ e, firstError checks = some e ∧ s.accept checks done = s.refuse e) ∨
      (firstError checks = none ∧ s.accept checks done = done) := by
  unfold State.accept
  cases firstError checks <;> simp

/-- A command on a bound slot ends in a refusal, or goes on with the profile of the slot. -/
theorem acceptBound_cases (s : State) (slot : Nat) (body : Profile → State) :
    (∃ e, e ≠ .ok ∧ s.acceptBound slot body = s.refuse e) ∨
      (∃ p, s.ctl.dseq = .idle ∧ s.ctl.bh.valid = true ∧ slot < s.params.nProf ∧
        s.profile? slot = some p ∧ s.acceptBound slot body = body p) := by
  have key : ∀ done, (∃ e, e ≠ .ok ∧
      s.accept [s.checkBusy, s.checkBus, s.checkSlot slot] done = s.refuse e) ∨
      (s.ctl.dseq = .idle ∧ s.ctl.bh.valid = true ∧ slot < s.params.nProf ∧
        s.accept [s.checkBusy, s.checkBus, s.checkSlot slot] done = done) := by
    intro done
    rcases accept_cases s [s.checkBusy, s.checkBus, s.checkSlot slot] done with ⟨e, he, h⟩ | ⟨hn, h⟩
    · refine .inl ⟨e, ?_, h⟩
      have := firstError_some he
      rintro rfl
      simp [State.checkBusy, State.checkBus, State.checkSlot] at this
    · have hc := (firstError_eq_none _).mp hn
      simp [State.checkBusy, State.checkBus, State.checkSlot] at hc
      refine .inr ⟨?_, hc.2.1, hc.2.2, h⟩
      cases hd : s.ctl.dseq
      · rfl
      · simp [hd] at hc
  unfold State.acceptBound
  cases hp : s.profile? slot with
  | none =>
    rcases key (s.refuse .invalidSlot) with ⟨e, he, h⟩ | ⟨_, _, _, h⟩
    · exact .inl ⟨e, he, h⟩
    · exact .inl ⟨_, by decide, h⟩
  | some p =>
    rcases key (body p) with ⟨e, he, h⟩ | ⟨h1, h2, h3, h⟩
    · exact .inl ⟨e, he, h⟩
    · exact .inr ⟨p, h1, h2, h3, rfl, h⟩

/-- What the primitive receives does not move its buffer. -/
@[simp] theorem received_rxBase (b : BufferSpace) (lat : Latch) (status : Word) (k : Nat) :
    (b.received lat status k).rxBase = b.rxBase := rfl

@[simp] theorem received_rxCapacity (b : BufferSpace) (lat : Latch) (status : Word) (k : Nat) :
    (b.received lat status k).rxCapacity = b.rxCapacity := rfl

/-- The size of an rx buffer is one a word can say. -/
theorem rxSize_le (b : BufferSpace) (lat : Latch) : b.rxSize lat ≤ 2 ^ 32 := by
  have h1 := lat.length.isLt
  have h2 := b.rxCapacity.isLt
  unfold BufferSpace.rxSize
  split <;> omega

/-! ## Reconciliation (R102, R103) -/

/-- The actions of one reconciliation, in the order of R102 and R103. -/
def reconcileActions (p : Profile) (b : BusHandle) : List Action :=
  (if p.clockSource = b.clockSource then [] else [.clkSrc p.clockSource]) ++
    (if p.divider = b.divider then [] else [.div p.divider]) ++
      (if p.idleClockPattern = b.idleClockPattern then []
        else [.idleBegin, .idleLatch p.idleClockPattern, .idleEnd])

/-- Everything reconciliation does: the three cached fields become the profile's, and the actions of the
fields that differed enter ACT. -/
theorem reconcile_eq (s : State) (p : Profile) :
    s.reconcile p =
      { s with
        ctl := { s.ctl with
          bh := { s.ctl.bh with
            clockSource := p.clockSource
            divider := p.divider
            idleClockPattern := p.idleClockPattern } }
        act := s.act ++ reconcileActions p s.ctl.bh } := by
  obtain ⟨params, ⟨⟨valid, src, dv, idle, deassert⟩, dp, dseq, lat, xfer, lines⟩, per, flags, act, now,
    later, buf, draws, out⟩ := s
  by_cases h1 : p.clockSource = src <;> by_cases h2 : p.divider = dv <;>
    by_cases h3 : p.idleClockPattern = idle <;>
      simp [State.reconcile, State.reconcileSource, State.reconcileDivider, State.reconcileIdle,
        State.idleSwitch, State.setBus, State.setCtl, State.emit, reconcileActions, h1, h2, h3]

/-! ## The engine's session -/

/-- What a session start leaves behind (R123). -/
theorem startSession_eq (s : State) (level : Bool) :
    s.startSession level =
      { s with
        per := s.per.opened level
        act := s.act ++ [.sStart s.per.pcfg.tableLength s.per.pcfg.nullCycleCount
          s.per.pcfg.outputOffset] } := rfl

/-- What a malformed transaction leaves behind (R126, R128). -/
theorem malformed_eq (s : State) (level : Bool) :
    s.malformed level =
      { s with
        per := { s.per.opened level with malformedCount := saturatingIncrement s.per.malformedCount }
        act := s.act ++ [.sAbort, .sStart s.per.pcfg.tableLength s.per.pcfg.nullCycleCount
          s.per.pcfg.outputOffset] } := by
  simp [State.malformed, State.countMalformed, State.emitStart, State.emit, State.setPer,
    Peripheral.opened]

/-- What the end of a session by deassertion leaves behind (R125, R127). -/
theorem truncateSession_eq (s : State) (level : Bool) :
    s.truncateSession level =
      { s with per := { s.per.closed with csSeen := level }, act := s.act ++ [.sAbort] } := rfl

/-! ## The arbiter (R176) -/

theorem mem_picks {l : List Input} {q : Input × List Input} (h : q ∈ picks l) : q.1 ∈ l := by
  induction l generalizing q with
  | nil => simp [picks] at h
  | cons i l ih =>
    simp only [picks, List.mem_cons, List.mem_map] at h
    rcases h with rfl | ⟨r, hr, rfl⟩
    · simp
    · exact List.mem_cons_of_mem _ (ih (q := r) hr)

theorem picks_ne_nil {l : List Input} (h : l ≠ []) : picks l ≠ [] := by
  cases l with
  | nil => exact absurd rfl h
  | cons i l => simp [picks]

theorem exists_pick {l : List Input} {i : Input} (h : i ∈ l) : ∃ q ∈ picks l, q.1 = i := by
  induction l with
  | nil => simp at h
  | cons j l ih =>
    rcases List.mem_cons.mp h with rfl | h
    · exact ⟨_, List.mem_cons_self, rfl⟩
    · obtain ⟨q, hq, rfl⟩ := ih h
      exact ⟨(q.1, j :: q.2), by simp only [picks, List.mem_cons, List.mem_map]; exact .inr ⟨q, hq, rfl⟩, rfl⟩

theorem mem_candidates {l : List Input} {q : Input × List Input} (h : q ∈ candidates l) : q ∈ picks l := by
  unfold candidates at h
  split at h
  · exact List.mem_of_mem_filter h
  · exact h

/-- A chip-select edge is no event of the primitive. -/
theorem isPrimitiveEvent_of_isSelectEdge {i : Input} (h : isSelectEdge i = true) :
    isPrimitiveEvent i = false := by
  cases i with
  | command c => simp [isSelectEdge] at h
  | event e =>
    simp only [isSelectEdge, isPrimitiveEvent] at *
    cases hd : decodeEvent e with
    | none => rfl
    | some i => cases i <;> simp_all

theorem candidates_ne_nil {l : List Input} (h : l ≠ []) : candidates l ≠ [] := by
  unfold candidates
  split
  · rename_i hany
    obtain ⟨i, hi, he⟩ := List.any_eq_true.mp hany
    obtain ⟨q, hq, rfl⟩ := exists_pick hi
    exact List.ne_nil_of_mem (List.mem_filter.mpr ⟨hq, by simp [isPrimitiveEvent_of_isSelectEdge he]⟩)
  · exact picks_ne_nil h

/-- What the arbiter can answer: an input that may come next, and the state without it, one draw later
where the choice was free. -/
theorem arbitrate_some {s r : State} {i : Input} (h : s.arbitrate = some (i, r)) :
    ∃ rest k, (i, rest) ∈ candidates s.now.presented ∧
      r = { s with now := { s.now with presented := rest }, draws := s.draws + k } := by
  unfold State.arbitrate at h
  split at h
  · simp at h
  · rename_i q hq
    simp only [Option.some.injEq, Prod.mk.injEq] at h
    obtain ⟨rfl, rfl⟩ := h
    exact ⟨q.2, 0, by simp [hq], rfl⟩
  · rename_i q q' rest hq
    simp only [Option.some.injEq, Prod.mk.injEq] at h
    obtain ⟨rfl, rfl⟩ := h
    refine ⟨_, 1, ?_, rfl⟩
    rw [hq]
    have hlt : Config.arbiter s.draws % (q :: q' :: rest).length < (q :: q' :: rest).length :=
      Nat.mod_lt _ (by simp)
    rw [List.getD_eq_getElem _ _ hlt]
    exact List.getElem_mem hlt

/-- The arbiter answers nothing exactly when nothing is presented. -/
theorem arbitrate_none {s : State} : s.arbitrate = none ↔ s.now.presented = [] := by
  constructor
  · intro h
    by_contra hne
    have hc := candidates_ne_nil hne
    unfold State.arbitrate at h
    split at h
    · rename_i hn; exact hc hn
    · simp at h
    · simp at h
  · intro h
    simp [State.arbitrate, h, candidates, picks]

/-- One input, presented alone, comes next and nothing is drawn. -/
theorem arbitrate_single {s : State} {i : Input} (h : s.now.presented = [i]) :
    s.arbitrate = some (i, s.withPresented []) := by
  have hc : candidates [i] = [(i, [])] := by
    unfold candidates
    split
    · rename_i hany
      have : isSelectEdge i = true := by simpa using hany
      simp [picks, isPrimitiveEvent_of_isSelectEdge this]
    · simp [picks]
  simp [State.arbitrate, h, hc]

/-- Both banks of the machine after reset, and the buffer space, have their canonical form. -/
theorem reset_banks_wf : Memory.wf State.reset.per.cur = true ∧ Memory.wf State.reset.per.shd = true ∧
    Memory.wf State.reset.buf.cells = true := ⟨rfl, rfl, rfl⟩

end Sys2Proof.Machine
end

