-- ==== Sys2Proof/Laws/Meanings.lean ====
section
/-! SUPPORT. One inversion lemma a command: its meaning answers the refusal of a failed check, or, with every
check passed, its effect.  `Effect` gathers them: a claim about every instruction is a case analysis over it, and
`step_cases` carries it to a step.
-/

namespace Sys2Proof.Machine

/-- The errors of a list of checks are no OK when none of them names OK. -/
theorem refusal_of_check {checks : List Check} {e : ErrorCode} (h : firstError checks = some e)
    (hok : ∀ c ∈ checks, c.2 ≠ .ok) : e ≠ .ok := hok _ (firstError_some h)

theorem dseq_idle_of_not_wait {d : DSeq} (h : (d == DSeq.wait) = false) : d = .idle := by
  cases d
  · rfl
  · exact absurd h (by decide)

theorem execCalc_cases (src : ClockSource) (divider coreRaw refRaw : Word) (s : State) :
    (∃ e, e ≠ .ok ∧ execCalc src divider coreRaw refRaw s = .next (s.refuse e)) ∨
      (s.ctl.dseq = .idle ∧ execCalc src divider coreRaw refRaw s =
        .next (s.respond .ok (computeDelays src divider coreRaw refRaw).delay
          (computeDelays src divider coreRaw refRaw).delayShort)) := by
  unfold execCalc
  rcases accept_cases s [s.checkBusy] (s.respond .ok (computeDelays src divider coreRaw refRaw).delay
    (computeDelays src divider coreRaw refRaw).delayShort) with ⟨e, he, h⟩ | ⟨hn, h⟩
  · exact .inl ⟨e, refusal_of_check he (by simp [State.checkBusy]), congrArg Host.Outcome.next h⟩
  · have hc := (firstError_eq_none _).mp hn
    simp only [State.checkBusy, List.mem_singleton, forall_eq] at hc
    exact .inr ⟨dseq_idle_of_not_wait hc, congrArg Host.Outcome.next h⟩

theorem execBusInit_cases (src : ClockSource) (divider idle deassert : Word) (s : State) :
    (∃ e, e ≠ .ok ∧ execBusInit src divider idle deassert s = .next (s.refuse e)) ∨
      (s.ctl.dseq = .idle ∧ s.ctl.bh.valid = false ∧
        execBusInit src divider idle deassert s =
          .next ((s.setCtl { s.ctl with
            bh := { valid := true, clockSource := src, divider := divider, idleClockPattern := idle,
                    csDeassertPattern := deassert }
            csLines := deassert }).respond .ok 0 0)) := by
  unfold execBusInit
  rcases accept_cases s [s.checkBusy, (s.ctl.bh.valid, .badState)]
    ((s.setCtl { s.ctl with
      bh := { valid := true, clockSource := src, divider := divider, idleClockPattern := idle,
              csDeassertPattern := deassert }
      csLines := deassert }).respond .ok 0 0) with ⟨e, he, h⟩ | ⟨hn, h⟩
  · exact .inl ⟨e, refusal_of_check he (by simp [State.checkBusy]), congrArg Host.Outcome.next h⟩
  · have hc := (firstError_eq_none _).mp hn
    simp only [State.checkBusy, List.mem_cons, List.not_mem_nil, or_false, forall_eq_or_imp,
      forall_eq] at hc
    exact .inr ⟨dseq_idle_of_not_wait hc.1, hc.2, congrArg Host.Outcome.next h⟩

theorem execBind_cases (slot pin : Nat) (pol pha : Bool) (src : ClockSource) (divider : Word) (s : State) :
    (∃ e, e ≠ .ok ∧ execBind slot pin pol pha src divider s = .next (s.refuse e)) ∨
      (s.ctl.dseq = .idle ∧ s.ctl.bh.valid = true ∧ slot < s.params.nProf ∧ s.bound slot = false ∧
        pin < s.params.csWidth ∧
        execBind slot pin pol pha src divider s =
          .next ((s.setProfile slot (s.newProfile pin pol pha src divider)).respond .ok
            (s.newProfile pin pol pha src divider).inputDelay
            (s.newProfile pin pol pha src divider).inputDelayShort)) := by
  unfold execBind
  rcases accept_cases s
    [s.checkBusy, s.checkBus, s.checkSlot slot, s.checkFree slot, s.checkPin pin]
    ((s.setProfile slot (s.newProfile pin pol pha src divider)).respond .ok
      (s.newProfile pin pol pha src divider).inputDelay
      (s.newProfile pin pol pha src divider).inputDelayShort) with ⟨e, he, h⟩ | ⟨hn, h⟩
  · refine .inl ⟨e, refusal_of_check he ?_, congrArg Host.Outcome.next h⟩
    simp [State.checkBusy, State.checkBus, State.checkSlot, State.checkFree, State.checkPin]
  · have hc := (firstError_eq_none _).mp hn
    simp only [State.checkBusy, State.checkBus, State.checkSlot, State.checkFree, State.checkPin,
      List.mem_cons, List.not_mem_nil, or_false, forall_eq_or_imp, forall_eq, Bool.not_eq_false',
      decide_eq_false_iff_not, Nat.not_le] at hc
    exact .inr ⟨dseq_idle_of_not_wait hc.1, hc.2.1, hc.2.2.1, hc.2.2.2.1, hc.2.2.2.2, congrArg Host.Outcome.next h⟩

theorem execSetDiv_cases (slot : Nat) (src : ClockSource) (divider : Word) (s : State) :
    (∃ e, e ≠ .ok ∧ execSetDiv slot src divider s = .next (s.refuse e)) ∨
      (∃ p, s.ctl.dseq = .idle ∧ s.ctl.bh.valid = true ∧ slot < s.params.nProf ∧
        s.profile? slot = some p ∧
        execSetDiv slot src divider s =
          .next ((s.setProfile slot (p.retimed src divider (s.sampledDelays src divider))).respond .ok
            (s.sampledDelays src divider).delay (s.sampledDelays src divider).delayShort)) := by
  unfold execSetDiv
  rcases acceptBound_cases s slot (fun p =>
    (s.setProfile slot (p.retimed src divider (s.sampledDelays src divider))).respond .ok
      (s.sampledDelays src divider).delay (s.sampledDelays src divider).delayShort)
    with ⟨e, he, h⟩ | ⟨p, h1, h2, h3, h4, h⟩
  · exact .inl ⟨e, he, congrArg Host.Outcome.next h⟩
  · exact .inr ⟨p, h1, h2, h3, h4, congrArg Host.Outcome.next h⟩

theorem execUnbind_cases (slot : Nat) (s : State) :
    (∃ e, e ≠ .ok ∧ execUnbind slot s = .next (s.refuse e)) ∨
      (∃ p, s.ctl.dseq = .idle ∧ s.ctl.bh.valid = true ∧ slot < s.params.nProf ∧
        s.profile? slot = some p ∧
        execUnbind slot s = .next ((s.freeProfile slot).respond .ok 0 0)) := by
  unfold execUnbind
  rcases acceptBound_cases s slot (fun _ => (s.freeProfile slot).respond .ok 0 0)
    with ⟨e, he, h⟩ | ⟨p, h1, h2, h3, h4, h⟩
  · exact .inl ⟨e, he, congrArg Host.Outcome.next h⟩
  · exact .inr ⟨p, h1, h2, h3, h4, congrArg Host.Outcome.next h⟩

/-- The state an accepted DISPATCH leaves (R100). -/
def dispatched (s : State) (p : Profile) (rxReq : Bool) (length txBase rxBase rxCapacity : Word) : State :=
  { s with
    ctl := { s.ctl with
      bh := { s.ctl.bh with
        clockSource := p.clockSource
        divider := p.divider
        idleClockPattern := p.idleClockPattern }
      csLines := p.csMask
      dseq := .wait
      lat := { length := length, rxReq := rxReq } }
    act := s.act ++ reconcileActions p s.ctl.bh ++ [.flush, .cs p.csMask,
      invocation (primitiveArgs p s.ctl.bh.csDeassertPattern rxReq length txBase rxBase)]
    buf := { s.buf with rxBase := rxBase, rxCapacity := rxCapacity }
    out := .response { err := .ok, res0 := 0, res1 := 0 } }

theorem execDispatch_cases (slot : Nat) (rxReq : Bool) (length txBase rxBase rxCapacity : Word)
    (s : State) :
    (∃ e, e ≠ .ok ∧
        execDispatch slot rxReq length txBase rxBase rxCapacity s = .next (s.refuse e)) ∨
      (∃ p, s.ctl.dseq = .idle ∧ s.ctl.bh.valid = true ∧ slot < s.params.nProf ∧
        s.profile? slot = some p ∧ (rxReq = true → length.toNat ≤ rxCapacity.toNat) ∧
        execDispatch slot rxReq length txBase rxBase rxCapacity s =
          .next (dispatched s p rxReq length txBase rxBase rxCapacity)) := by
  let done : Profile → State := fun p =>
    ((((((s.reconcile p).emit .flush).driveSelect p.csMask).invoke
      (primitiveArgs p (((s.reconcile p).emit .flush).driveSelect p.csMask).ctl.bh.csDeassertPattern
        rxReq length txBase rxBase) rxCapacity).beginWait length rxReq).respond .ok 0 0)
  rcases acceptBound_cases s slot (fun p => s.accept [checkCapacity rxReq length rxCapacity] (done p))
    with ⟨e, he, h⟩ | ⟨p, h1, h2, h3, h4, h⟩
  · exact .inl ⟨e, he, congrArg Host.Outcome.next h⟩
  · rcases accept_cases s [checkCapacity rxReq length rxCapacity] (done p) with ⟨e, he, h'⟩ | ⟨hn, h'⟩
    · exact .inl ⟨e, refusal_of_check he (by simp [checkCapacity]),
        congrArg Host.Outcome.next (h.trans h')⟩
    · refine .inr ⟨p, h1, h2, h3, h4, ?_, ?_⟩
      · have hc := (firstError_eq_none _).mp hn
        intro hr
        simpa [checkCapacity, hr, BitVec.le_def] using hc
      · refine (congrArg Host.Outcome.next (h.trans h')).trans ?_
        simp [done, dispatched, reconcile_eq, State.driveSelect, State.invoke, State.emit, State.setCtl,
          State.setBuf, State.beginWait, State.respond, primitiveArgs]

theorem execPInit_cases (level : Bool) (tableLength nullCycles outputOffset : Word) (s : State) :
    (∃ e, e ≠ .ok ∧ execPInit level tableLength nullCycles outputOffset s = .next (s.refuse e)) ∨
      (s.per.st = .idle ∧ tableLength.toNat ≤ s.params.tableMax ∧
        execPInit level tableLength nullCycles outputOffset s =
          .next ((s.setPer (s.per.configured level tableLength nullCycles outputOffset)).respond
            .ok 0 0)) := by
  unfold execPInit
  rcases accept_cases s [s.checkIdle, s.checkTableMax tableLength]
    ((s.setPer (s.per.configured level tableLength nullCycles outputOffset)).respond .ok 0 0)
    with ⟨e, he, h⟩ | ⟨hn, h⟩
  · exact .inl ⟨e, refusal_of_check he (by simp [State.checkIdle, State.checkTableMax]), congrArg Host.Outcome.next h⟩
  · have hc := (firstError_eq_none _).mp hn
    simp only [State.checkIdle, State.checkTableMax, List.mem_cons, List.not_mem_nil, or_false,
      forall_eq_or_imp, forall_eq, decide_eq_false_iff_not, Nat.not_lt, bne_eq_false_iff_eq] at hc
    exact .inr ⟨hc.1, hc.2, congrArg Host.Outcome.next h⟩

theorem execTWrite_cases (address : Word) (byte : Byte) (s : State) :
    (∃ e, e ≠ .ok ∧ execTWrite address byte s = .next (s.refuse e)) ∨
      (s.per.pcfg.valid = true ∧ address.toNat < s.per.pcfg.tableLength.toNat ∧
        execTWrite address byte s = .next ((s.tblWrite address byte).respond .ok 0 0)) := by
  unfold execTWrite
  rcases accept_cases s [s.checkConfigured, s.checkAddress address]
    ((s.tblWrite address byte).respond .ok 0 0) with ⟨e, he, h⟩ | ⟨hn, h⟩
  · exact .inl ⟨e, refusal_of_check he (by simp [State.checkConfigured, State.checkAddress]), congrArg Host.Outcome.next h⟩
  · have hc := (firstError_eq_none _).mp hn
    simp only [State.checkConfigured, State.checkAddress, State.inRange, List.mem_cons, List.not_mem_nil,
      or_false, forall_eq_or_imp, forall_eq, Bool.not_eq_false', decide_eq_true_eq] at hc
    exact .inr ⟨hc.1, hc.2, congrArg Host.Outcome.next h⟩

theorem execTRead_cases (address : Word) (s : State) :
    (∃ e, e ≠ .ok ∧ execTRead address s = .next (s.refuse e)) ∨
      (s.per.pcfg.valid = true ∧ address.toNat < s.per.pcfg.tableLength.toNat ∧
        execTRead address s =
          .next ((s.afterTblRead address).respond .ok ((s.tblRead address).setWidth 32) 0)) := by
  unfold execTRead
  rcases accept_cases s [s.checkConfigured, s.checkAddress address]
    ((s.afterTblRead address).respond .ok ((s.tblRead address).setWidth 32) 0) with ⟨e, he, h⟩ | ⟨hn, h⟩
  · exact .inl ⟨e, refusal_of_check he (by simp [State.checkConfigured, State.checkAddress]), congrArg Host.Outcome.next h⟩
  · have hc := (firstError_eq_none _).mp hn
    simp only [State.checkConfigured, State.checkAddress, State.inRange, List.mem_cons, List.not_mem_nil,
      or_false, forall_eq_or_imp, forall_eq, Bool.not_eq_false', decide_eq_true_eq] at hc
    exact .inr ⟨hc.1, hc.2, congrArg Host.Outcome.next h⟩

theorem execPublish_cases (address length : Word) (s : State) :
    (∃ e, e ≠ .ok ∧ execPublish address length s = .next (s.refuse e)) ∨
      (s.per.pcfg.valid = true ∧ address.toNat + length.toNat ≤ s.per.pcfg.tableLength.toNat ∧
        execPublish address length s = .next ((s.publishRange address length).respond .ok 0 0)) := by
  unfold execPublish
  rcases accept_cases s [s.checkConfigured, s.checkRange address length]
    ((s.publishRange address length).respond .ok 0 0) with ⟨e, he, h⟩ | ⟨hn, h⟩
  · exact .inl ⟨e, refusal_of_check he (by simp [State.checkConfigured, State.checkRange]), congrArg Host.Outcome.next h⟩
  · have hc := (firstError_eq_none _).mp hn
    simp only [State.checkConfigured, State.checkRange, List.mem_cons, List.not_mem_nil, or_false,
      forall_eq_or_imp, forall_eq, Bool.not_eq_false', decide_eq_false_iff_not, Nat.not_lt] at hc
    exact .inr ⟨hc.1, hc.2, congrArg Host.Outcome.next h⟩

/-- Everything E_CS can do (R122): nothing, a session start, a malformed transaction, or a session's end. -/
theorem execECs_cases (level : Bool) (s : State) :
    ((s.per.pcfg.valid = false ∨ level ≠ s.per.pcfg.assertLevel ∧ s.per.st = .idle) ∧
        execECs level s = .next s.quiet) ∨
      (s.per.pcfg.valid = true ∧ level = s.per.pcfg.assertLevel ∧ s.per.st = .idle ∧
        execECs level s = .next (s.startSession level).quiet) ∨
      (s.per.pcfg.valid = true ∧ level = s.per.pcfg.assertLevel ∧ s.per.st ≠ .idle ∧
        execECs level s = .next (s.malformed level).quiet) ∨
      (s.per.pcfg.valid = true ∧ level ≠ s.per.pcfg.assertLevel ∧ s.per.st ≠ .idle ∧
        execECs level s = .next (s.truncateSession level).quiet) := by
  unfold execECs
  by_cases hv : s.per.pcfg.valid = true
  · by_cases hl : level = s.per.pcfg.assertLevel
    · cases hs : s.per.st <;> simp [hv, ← hl, hs, State.selectAsserted]
    · cases hs : s.per.st <;> simp [hv, hl, hs, State.selectDeasserted]
  · simp [hv]

/-- Everything E_DECODE can do (R129). -/
theorem classify_cases (s : State) (k : Kind) :
    (s.per.st = .waitingForAddress ∧ s.classify k = s.setPer { s.per with st := k.state }) ∨
      (s.per.st ≠ .waitingForAddress ∧ s.classify k = s.flagUnexpected) := by
  unfold State.classify
  cases hs : s.per.st <;> simp

/-- Everything E_DONE can do (R130). -/
theorem execEDone_cases (code : Word) (s : State) :
    (s.per.session = false ∧ execEDone code s = .next s.flagUnexpected.quiet) ∨
      (s.per.session = true ∧ code = 0 ∧ execEDone code s = .next s.completeSession.quiet) ∨
      (s.per.session = true ∧ code ≠ 0 ∧
        execEDone code s =
          .next ((s.setPer { s.per.closed with primCode := code }).flagPrimErr).quiet) := by
  unfold execEDone State.latchCode
  cases hs : s.per.session
  · exact .inl ⟨rfl, rfl⟩
  · by_cases hc : code = 0
    · exact .inr (.inl ⟨rfl, hc, by rw [if_pos hc]; rfl⟩)
    · exact .inr (.inr ⟨rfl, hc, by rw [if_neg hc]; rfl⟩)

/-- Everything E_REGWR can do (R153). -/
theorem execERegWr_cases (address : Word) (byte : Byte) (s : State) :
    (¬(s.per.st = .writing ∨ s.per.st = .readingWriting) ∧
        execERegWr address byte s = .next s.flagUnexpected.quiet) ∨
      ((s.per.st = .writing ∨ s.per.st = .readingWriting) ∧
        s.per.pcfg.tableLength.toNat ≤ address.toNat ∧
        execERegWr address byte s = .next s.flagRange.quiet) ∨
      ((s.per.st = .writing ∨ s.per.st = .readingWriting) ∧
        address.toNat < s.per.pcfg.tableLength.toNat ∧
        execERegWr address byte s = .next (s.tblWrite address byte).quiet) := by
  unfold execERegWr State.inRange
  by_cases hr : address.toNat < s.per.pcfg.tableLength.toNat
  · cases hs : s.per.st <;> simp [TxState.admitsWrite, hr]
  · cases hs : s.per.st <;> simp [TxState.admitsWrite, hr, Nat.le_of_not_lt hr]

/-- Everything E_REGRD can do (R154). -/
theorem execERegRd_cases (address : Word) (s : State) :
    (¬(s.per.st = .reading ∨ s.per.st = .readingWriting) ∧
        execERegRd address s = .next (s.flagUnexpected.drawn.reply (Config.freeByte s.draws))) ∨
      ((s.per.st = .reading ∨ s.per.st = .readingWriting) ∧
        s.per.pcfg.tableLength.toNat ≤ address.toNat ∧
        execERegRd address s = .next (s.flagRange.drawn.reply (Config.freeByte s.draws))) ∨
      ((s.per.st = .reading ∨ s.per.st = .readingWriting) ∧
        address.toNat < s.per.pcfg.tableLength.toNat ∧
        execERegRd address s = .next ((s.afterTblRead address).reply (s.tblRead address))) := by
  unfold execERegRd State.inRange
  by_cases hr : address.toNat < s.per.pcfg.tableLength.toNat
  · cases hs : s.per.st <;> simp [TxState.admitsRead, hr]
  · cases hs : s.per.st <;> simp [TxState.admitsRead, hr, Nat.le_of_not_lt hr]

/-- A table read leaves everything but the counter of draws alone. -/
theorem afterTblRead_eq (s : State) (a : Word) :
    ∃ k, s.afterTblRead a = { s with draws := s.draws + k } := by
  unfold State.afterTblRead
  split
  · exact ⟨0, rfl⟩
  · exact ⟨1, rfl⟩

/-- The end of the wait, field by field. -/
theorem endWait_eq (s : State) (status : Word) :
    s.endWait status = { s with
      ctl := { s.ctl with
        xfer := s.ctl.xfer.completed s.ctl.lat status
        csLines := s.ctl.bh.csDeassertPattern
        dseq := .idle
        lat := { length := Config.freeWord s.draws, rxReq := Config.freeBool (s.draws + 1) } }
      buf := s.buf.received s.ctl.lat status (s.draws + 2)
      draws := s.draws + (2 + s.buf.rxSize s.ctl.lat) } := rfl

/-- Everything P_STATUS can do (R109). -/
theorem execPStatus_cases (status : Word) (s : State) :
    (s.ctl.dseq = .idle ∧ execPStatus status s = .next s.flagUnexpected.quiet) ∨
      (s.ctl.dseq = .wait ∧ execPStatus status s = .next (s.endWait status).quiet) := by
  unfold execPStatus
  cases hd : s.ctl.dseq <;> simp

/-- What an instruction that answers a next state can have done: one case a rule, each with its condition.
A claim about every instruction is `cases exec_effect h`. -/
inductive Effect (s : State) : Instr → State → Prop where
  | refused {i : Instr} {e : ErrorCode} (hc : controllerCommand i = true ∨ peripheralCommand i = true)
      (he : e ≠ .ok) : Effect s i (s.refuse e)
  | calc {src : ClockSource} {divider coreRaw refRaw : Word} (hd : s.ctl.dseq = .idle) :
      Effect s (.calcDelays src divider coreRaw refRaw)
        (s.respond .ok (computeDelays src divider coreRaw refRaw).delay
          (computeDelays src divider coreRaw refRaw).delayShort)
  | busInit {src : ClockSource} {divider idle deassert : Word} (hd : s.ctl.dseq = .idle)
      (hv : s.ctl.bh.valid = false) :
      Effect s (.busInit src divider idle deassert)
        ((s.setCtl { s.ctl with
          bh := { valid := true, clockSource := src, divider := divider, idleClockPattern := idle,
                  csDeassertPattern := deassert }
          csLines := deassert }).respond .ok 0 0)
  | bind {slot pin : Nat} {pol pha : Bool} {src : ClockSource} {divider : Word}
      (hd : s.ctl.dseq = .idle) (hv : s.ctl.bh.valid = true) (hs : slot < s.params.nProf)
      (hb : s.bound slot = false) (hp : pin < s.params.csWidth) :
      Effect s (.bind slot pin pol pha src divider)
        ((s.setProfile slot (s.newProfile pin pol pha src divider)).respond .ok
          (s.newProfile pin pol pha src divider).inputDelay
          (s.newProfile pin pol pha src divider).inputDelayShort)
  | setDiv {slot : Nat} {src : ClockSource} {divider : Word} (p : Profile) (hd : s.ctl.dseq = .idle)
      (hv : s.ctl.bh.valid = true) (hs : slot < s.params.nProf) (hp : s.profile? slot = some p) :
      Effect s (.setDiv slot src divider)
        ((s.setProfile slot (p.retimed src divider (s.sampledDelays src divider))).respond .ok
          (s.sampledDelays src divider).delay (s.sampledDelays src divider).delayShort)
  | unbind {slot : Nat} (p : Profile) (hd : s.ctl.dseq = .idle) (hv : s.ctl.bh.valid = true)
      (hs : slot < s.params.nProf) (hp : s.profile? slot = some p) :
      Effect s (.unbind slot) ((s.freeProfile slot).respond .ok 0 0)
  | dispatch {slot : Nat} {rxReq : Bool} {length txBase rxBase rxCapacity : Word} (p : Profile)
      (hd : s.ctl.dseq = .idle) (hv : s.ctl.bh.valid = true) (hs : slot < s.params.nProf)
      (hp : s.profile? slot = some p) (hl : rxReq = true → length.toNat ≤ rxCapacity.toNat) :
      Effect s (.dispatch slot rxReq length txBase rxBase rxCapacity)
        (dispatched s p rxReq length txBase rxBase rxCapacity)
  | pInit {level : Bool} {tableLength nulls offset : Word} (hs : s.per.st = .idle)
      (hl : tableLength.toNat ≤ s.params.tableMax) :
      Effect s (.pInit level tableLength nulls offset)
        ((s.setPer (s.per.configured level tableLength nulls offset)).respond .ok 0 0)
  | tWrite {address : Word} {byte : Byte} (hv : s.per.pcfg.valid = true)
      (ha : address.toNat < s.per.pcfg.tableLength.toNat) :
      Effect s (.tWrite address byte) ((s.tblWrite address byte).respond .ok 0 0)
  | tRead {address : Word} (k : Nat) (hv : s.per.pcfg.valid = true)
      (ha : address.toNat < s.per.pcfg.tableLength.toNat) :
      Effect s (.tRead address)
        (State.respond { s with draws := s.draws + k } .ok ((s.tblRead address).setWidth 32) 0)
  | publish {address length : Word} (hv : s.per.pcfg.valid = true)
      (ha : address.toNat + length.toNat ≤ s.per.pcfg.tableLength.toNat) :
      Effect s (.publish address length) ((s.publishRange address length).respond .ok 0 0)
  | csIgnored {level : Bool}
      (h : s.per.pcfg.valid = false ∨ level ≠ s.per.pcfg.assertLevel ∧ s.per.st = .idle) :
      Effect s (.eCs level) s.quiet
  | csStart {level : Bool} (hv : s.per.pcfg.valid = true) (hl : level = s.per.pcfg.assertLevel)
      (hs : s.per.st = .idle) : Effect s (.eCs level) (s.startSession level).quiet
  | csMalformed {level : Bool} (hv : s.per.pcfg.valid = true) (hl : level = s.per.pcfg.assertLevel)
      (hs : s.per.st ≠ .idle) : Effect s (.eCs level) (s.malformed level).quiet
  | csEnd {level : Bool} (hv : s.per.pcfg.valid = true) (hl : level ≠ s.per.pcfg.assertLevel)
      (hs : s.per.st ≠ .idle) : Effect s (.eCs level) (s.truncateSession level).quiet
  | data : Effect s .eData s.quiet
  | classified {i : Instr} (k : Kind)
      (hi : i = .eDecodeW ∧ k = .write ∨ i = .eDecodeR ∧ k = .read ∨ i = .eDecodeRW ∧ k = .readWrite)
      (hs : s.per.st = .waitingForAddress) : Effect s i (s.setPer { s.per with st := k.state }).quiet
  | decodeDropped {i : Instr} (hi : i = .eDecodeW ∨ i = .eDecodeR ∨ i = .eDecodeRW)
      (hs : s.per.st ≠ .waitingForAddress) : Effect s i s.flagUnexpected.quiet
  | doneDropped {code : Word} (hs : s.per.session = false) :
      Effect s (.eDone code) s.flagUnexpected.quiet
  | doneOk {code : Word} (hs : s.per.session = true) (hc : code = 0) :
      Effect s (.eDone code) s.completeSession.quiet
  | doneError {code : Word} (hs : s.per.session = true) (hc : code ≠ 0) :
      Effect s (.eDone code) ((s.setPer { s.per.closed with primCode := code }).flagPrimErr).quiet
  | regWrUnexpected {address : Word} {byte : Byte}
      (hs : ¬(s.per.st = .writing ∨ s.per.st = .readingWriting)) :
      Effect s (.eRegWr address byte) s.flagUnexpected.quiet
  | regWrRange {address : Word} {byte : Byte}
      (ha : s.per.pcfg.tableLength.toNat ≤ address.toNat) :
      Effect s (.eRegWr address byte) s.flagRange.quiet
  | regWr {address : Word} {byte : Byte} (hs : s.per.st = .writing ∨ s.per.st = .readingWriting)
      (ha : address.toNat < s.per.pcfg.tableLength.toNat) :
      Effect s (.eRegWr address byte) (s.tblWrite address byte).quiet
  | regRdUnexpected {address : Word} (hs : ¬(s.per.st = .reading ∨ s.per.st = .readingWriting)) :
      Effect s (.eRegRd address) (s.flagUnexpected.drawn.reply (Config.freeByte s.draws))
  | regRdRange {address : Word} (ha : s.per.pcfg.tableLength.toNat ≤ address.toNat) :
      Effect s (.eRegRd address) (s.flagRange.drawn.reply (Config.freeByte s.draws))
  | regRd {address : Word} (k : Nat) (hs : s.per.st = .reading ∨ s.per.st = .readingWriting)
      (ha : address.toNat < s.per.pcfg.tableLength.toNat) :
      Effect s (.eRegRd address) (State.reply { s with draws := s.draws + k } (s.tblRead address))
  | statusDropped {status : Word} (hd : s.ctl.dseq = .idle) :
      Effect s (.pStatus status) s.flagUnexpected.quiet
  | status {status : Word} (hd : s.ctl.dseq = .wait) :
      Effect s (.pStatus status) (s.endWait status).quiet

/-- A classification has one of the two effects of R129. -/
theorem classify_effect {s t : State} {i : Instr} (k : Kind)
    (hi : i = .eDecodeW ∧ k = .write ∨ i = .eDecodeR ∧ k = .read ∨ i = .eDecodeRW ∧ k = .readWrite)
    (h : Host.Outcome.next (s.classify k).quiet = (.next t : Result)) : Effect s i t := by
  rcases classify_cases s k with ⟨h1, hh⟩ | ⟨h1, hh⟩ <;> rw [hh] at h <;> cases h
  · exact .classified k hi h1
  · exact .decodeDropped (by rcases hi with hi | hi | hi <;> simp [hi.1]) h1

/-- Every instruction that answers a next state has one of the effects listed. -/
theorem exec_effect {i : Instr} {s t : State} (h : exec i s = .next t) : Effect s i t := by
  cases i with
  | calcDelays src d c r =>
    rcases execCalc_cases src d c r s with ⟨e, he, hh⟩ | ⟨h1, hh⟩ <;> cases hh.symm.trans h
    · exact .refused (.inl rfl) he
    · exact .calc h1
  | busInit src d w v =>
    rcases execBusInit_cases src d w v s with ⟨e, he, hh⟩ | ⟨h1, h2, hh⟩ <;> cases hh.symm.trans h
    · exact .refused (.inl rfl) he
    · exact .busInit h1 h2
  | bind slot pin pol pha src d =>
    rcases execBind_cases slot pin pol pha src d s with ⟨e, he, hh⟩ | ⟨h1, h2, h3, h4, h5, hh⟩ <;>
      cases hh.symm.trans h
    · exact .refused (.inl rfl) he
    · exact .bind h1 h2 h3 h4 h5
  | setDiv slot src d =>
    rcases execSetDiv_cases slot src d s with ⟨e, he, hh⟩ | ⟨p, h1, h2, h3, h4, hh⟩ <;>
      cases hh.symm.trans h
    · exact .refused (.inl rfl) he
    · exact .setDiv p h1 h2 h3 h4
  | unbind slot =>
    rcases execUnbind_cases slot s with ⟨e, he, hh⟩ | ⟨p, h1, h2, h3, h4, hh⟩ <;>
      cases hh.symm.trans h
    · exact .refused (.inl rfl) he
    · exact .unbind p h1 h2 h3 h4
  | dispatch slot rx len tx rxb cap =>
    rcases execDispatch_cases slot rx len tx rxb cap s with ⟨e, he, hh⟩ | ⟨p, h1, h2, h3, h4, h5, hh⟩ <;>
      cases hh.symm.trans h
    · exact .refused (.inl rfl) he
    · exact .dispatch p h1 h2 h3 h4 h5
  | pInit l n c o =>
    rcases execPInit_cases l n c o s with ⟨e, he, hh⟩ | ⟨h1, h2, hh⟩ <;> cases hh.symm.trans h
    · exact .refused (.inr rfl) he
    · exact .pInit h1 h2
  | publish a n =>
    rcases execPublish_cases a n s with ⟨e, he, hh⟩ | ⟨h1, h2, hh⟩ <;> cases hh.symm.trans h
    · exact .refused (.inr rfl) he
    · exact .publish h1 h2
  | tWrite a b =>
    rcases execTWrite_cases a b s with ⟨e, he, hh⟩ | ⟨h1, h2, hh⟩ <;> cases hh.symm.trans h
    · exact .refused (.inr rfl) he
    · exact .tWrite h1 h2
  | tRead a =>
    rcases execTRead_cases a s with ⟨e, he, hh⟩ | ⟨h1, h2, hh⟩ <;> cases hh.symm.trans h
    · exact .refused (.inr rfl) he
    · obtain ⟨k, hk⟩ := afterTblRead_eq s a
      rw [hk]
      exact .tRead k h1 h2
  | eCs level =>
    rcases execECs_cases level s with ⟨h1, hh⟩ | ⟨h1, h2, h3, hh⟩ | ⟨h1, h2, h3, hh⟩ | ⟨h1, h2, h3, hh⟩ <;>
      cases hh.symm.trans h
    · exact .csIgnored h1
    · exact .csStart h1 h2 h3
    · exact .csMalformed h1 h2 h3
    · exact .csEnd h1 h2 h3
  | eData =>
    cases h
    exact .data
  | eDecodeW => exact classify_effect .write (.inl ⟨rfl, rfl⟩) h
  | eDecodeR => exact classify_effect .read (.inr (.inl ⟨rfl, rfl⟩)) h
  | eDecodeRW => exact classify_effect .readWrite (.inr (.inr ⟨rfl, rfl⟩)) h
  | eDone code =>
    rcases execEDone_cases code s with ⟨h1, hh⟩ | ⟨h1, h2, hh⟩ | ⟨h1, h2, hh⟩ <;> cases hh.symm.trans h
    · exact .doneDropped h1
    · exact .doneOk h1 h2
    · exact .doneError h1 h2
  | eRegWr a b =>
    rcases execERegWr_cases a b s with ⟨h1, hh⟩ | ⟨h1, h2, hh⟩ | ⟨h1, h2, hh⟩ <;> cases hh.symm.trans h
    · exact .regWrUnexpected h1
    · exact .regWrRange h2
    · exact .regWr h1 h2
  | eRegRd a =>
    rcases execERegRd_cases a s with ⟨h1, hh⟩ | ⟨h1, h2, hh⟩ | ⟨h1, h2, hh⟩ <;> cases hh.symm.trans h
    · exact .regRdUnexpected h1
    · exact .regRdRange h2
    · obtain ⟨k, hk⟩ := afterTblRead_eq s a
      rw [hk]
      exact .regRd k h1 h2
  | pStatus status =>
    rcases execPStatus_cases status s with ⟨h1, hh⟩ | ⟨h1, hh⟩ <;> cases hh.symm.trans h
    · exact .statusDropped h1
    · exact .status h1

/-! ## Pseudo-operations (R76) -/

/-- A script goes on after a command that is not refused, and stops after one that is. -/
theorem execScript_cons {i : Instr} {is : List Instr} {s t : State} (h : exec i s = .next t) :
    execScript (i :: is) s = if t.wasRefused then .next t else execScript is t := by
  simp only [execScript, h]

/-- A step of the machine is one of four: a reset, a wait, the meaning of a decoded input, or the handling
of an undecodable one. -/
theorem step_cases (s : State) :
    (s.now.rst = true ∧ step s = .next s.takeReset) ∨
      (s.now.rst = false ∧ s.now.presented = [] ∧ step s = .next s.await) ∨
      (∃ inp r, s.now.rst = false ∧ s.arbitrate = some (inp, r) ∧
        ((∃ i, decodeInput inp = some i ∧ step s = exec i r) ∨
          (decodeInput inp = none ∧ step s = .next (r.undecoded inp)))) := by
  unfold step
  cases hr : s.now.rst
  · cases ha : s.arbitrate with
    | none => exact .inr (.inl ⟨rfl, arbitrate_none.mp ha, by simp⟩)
    | some q =>
      obtain ⟨inp, r⟩ := q
      refine .inr (.inr ⟨inp, r, rfl, rfl, ?_⟩)
      simp only [Bool.false_eq_true, if_false, State.handle]
      cases hd : decodeInput inp with
      | none => exact .inr ⟨rfl, rfl⟩
      | some i => exact .inl ⟨i, rfl, rfl⟩
  · exact .inl ⟨rfl, rfl⟩

end Sys2Proof.Machine
end

