-- ==== Sys2Proof/Laws/PerInstr.lean ====
section
/-! SUPPORT. What is said of every instruction as syntax, one lemma a constructor.

`RowMatch`: the first word of an encoded well-formed instruction matches its row of spec/opcode_table.json,
that is, its operands never spill into the bits the row fixes (R61, R62, R68).
-/

namespace Sys2Proof.Laws

/-- The mask and the match value of an instruction's row in spec/opcode_table.json. -/
def tableRow : Instr → Word × Word
  | .calcDelays _ _ _ _ => (0xFFFFFFFE, 0x01000000)
  | .busInit _ _ _ _ => (0xFFFFFFFE, 0x10000000)
  | .bind _ _ _ _ _ _ => (0xFF0000F8, 0x11000000)
  | .setDiv _ _ _ => (0xFF00FFFE, 0x12000000)
  | .unbind _ => (0xFF00FFFF, 0x13000000)
  | .dispatch _ _ _ _ _ _ => (0xFF00FFF7, 0x14000000)
  | .pInit _ _ _ _ => (0xFFFFFFFE, 0x20000000)
  | .publish _ _ => (0xFFFFFFFF, 0x21000000)
  | .tWrite _ _ => (0xFFFFFFFF, 0x22000000)
  | .tRead _ => (0xFFFFFFFF, 0x23000000)
  | .eCs _ => (0xFFFFFFFE, 0x90000000)
  | .eData => (0xFFFFFFFF, 0xA0000000)
  | .eDecodeW => (0xFFFFFFFF, 0x30000001)
  | .eDecodeR => (0xFFFFFFFF, 0x30000002)
  | .eDecodeRW => (0xFFFFFFFF, 0x30000003)
  | .eDone _ => (0xFFFFFFFF, 0x40000000)
  | .eRegWr _ _ => (0xFFFFFFFF, 0x50000000)
  | .eRegRd _ => (0xFFFFFFFF, 0x60000000)
  | .pStatus _ => (0xFFFFFFFF, 0x80000000)

/-- The first word of the encoded instruction matches its row. -/
def RowMatch.Statement (i : Instr) : Prop :=
  i.wf = true → (encode i).firstWord &&& (tableRow i).1 = (tableRow i).2

theorem RowMatch.calcDelays (src : ClockSource) (divider coreRaw refRaw : Word) :
    RowMatch.Statement (.calcDelays src divider coreRaw refRaw) := by
  intro _; cases src <;> (simp only [encode, commandInput, Input.firstWord, tableRow, ClockSource.bit]; decide)

theorem RowMatch.busInit (src : ClockSource) (divider idle deassert : Word) :
    RowMatch.Statement (.busInit src divider idle deassert) := by
  intro _; cases src <;> (simp only [encode, commandInput, Input.firstWord, tableRow, ClockSource.bit]; decide)

theorem RowMatch.bind (slot pin : Nat) (pol pha : Bool) (src : ClockSource) (divider : Word) :
    RowMatch.Statement (.bind slot pin pol pha src divider) := by
  intro h
  simp only [Instr.wf, Bool.and_eq_true] at h
  apply and_eq_of_bits
  intro i hi
  have hs := @testBit_of_fitsField slot
  have hp := @testBit_of_fitsField pin
  simp only [encode, commandInput, Input.firstWord, tableRow, BitVec.getLsbD_or, getLsbD_fieldAt hi,
    getLsbD_bitAt hi]
  interval_cases i <;> simp [h, hs, hp]

theorem RowMatch.setDiv (slot : Nat) (src : ClockSource) (divider : Word) :
    RowMatch.Statement (.setDiv slot src divider) := by
  intro h
  simp only [Instr.wf] at h
  apply and_eq_of_bits
  intro i hi
  have hs := @testBit_of_fitsField slot
  simp only [encode, commandInput, Input.firstWord, tableRow, BitVec.getLsbD_or, getLsbD_fieldAt hi,
    getLsbD_bitAt hi]
  interval_cases i <;> simp [h, hs]

theorem RowMatch.unbind (slot : Nat) : RowMatch.Statement (.unbind slot) := by
  intro h
  simp only [Instr.wf] at h
  apply and_eq_of_bits
  intro i hi
  have hs := @testBit_of_fitsField slot
  simp only [encode, commandInput, Input.firstWord, tableRow, BitVec.getLsbD_or, getLsbD_fieldAt hi]
  interval_cases i <;> simp [h, hs]

theorem RowMatch.dispatch (slot : Nat) (rxReq : Bool) (length txBase rxBase rxCapacity : Word) :
    RowMatch.Statement (.dispatch slot rxReq length txBase rxBase rxCapacity) := by
  intro h
  simp only [Instr.wf] at h
  apply and_eq_of_bits
  intro i hi
  have hs := @testBit_of_fitsField slot
  simp only [encode, commandInput, Input.firstWord, tableRow, BitVec.getLsbD_or, getLsbD_fieldAt hi,
    getLsbD_bitAt hi]
  interval_cases i <;> simp [h, hs]

theorem RowMatch.pInit (level : Bool) (tableLength nullCycles outputOffset : Word) :
    RowMatch.Statement (.pInit level tableLength nullCycles outputOffset) := by
  intro _; cases level <;> (simp only [encode, commandInput, Input.firstWord, tableRow]; decide)

theorem RowMatch.publish (address length : Word) : RowMatch.Statement (.publish address length) :=
  fun _ => by
  simp only [encode, commandInput, Input.firstWord, tableRow]; decide

theorem RowMatch.tWrite (address : Word) (byte : Byte) : RowMatch.Statement (.tWrite address byte) :=
  fun _ => by
  simp only [encode, commandInput, Input.firstWord, tableRow]; decide

theorem RowMatch.tRead (address : Word) : RowMatch.Statement (.tRead address) := fun _ => by
  simp only [encode, commandInput, Input.firstWord, tableRow]; decide

theorem RowMatch.eCs (level : Bool) : RowMatch.Statement (.eCs level) := by
  intro _; cases level <;> (simp only [encode, eventInput, Input.firstWord, tableRow]; decide)

theorem RowMatch.eData : RowMatch.Statement .eData := fun _ => by
  simp only [encode, eventInput, Input.firstWord, tableRow]; decide

theorem RowMatch.eDecodeW : RowMatch.Statement .eDecodeW := fun _ => by
  simp only [encode, eventInput, Input.firstWord, tableRow]; decide

theorem RowMatch.eDecodeR : RowMatch.Statement .eDecodeR := fun _ => by
  simp only [encode, eventInput, Input.firstWord, tableRow]; decide

theorem RowMatch.eDecodeRW : RowMatch.Statement .eDecodeRW := fun _ => by
  simp only [encode, eventInput, Input.firstWord, tableRow]; decide

theorem RowMatch.eDone (code : Word) : RowMatch.Statement (.eDone code) := fun _ => by
  simp only [encode, eventInput, Input.firstWord, tableRow]; decide

theorem RowMatch.eRegWr (address : Word) (byte : Byte) : RowMatch.Statement (.eRegWr address byte) :=
  fun _ => by
  simp only [encode, eventInput, Input.firstWord, tableRow]; decide

theorem RowMatch.eRegRd (address : Word) : RowMatch.Statement (.eRegRd address) := fun _ => by
  simp only [encode, eventInput, Input.firstWord, tableRow]; decide

theorem RowMatch.pStatus (status : Word) : RowMatch.Statement (.pStatus status) := fun _ => by
  simp only [encode, eventInput, Input.firstWord, tableRow]; decide

end Sys2Proof.Laws
end

