-- ==== Sys2Proof/Tests/Slice0.lean ====
section
/-! SUPPORT. The model's own tests.  Expected results are those of spec/95_test_vectors.md (the vector is named
in each docstring) or of the example in the rule named; the witnesses at the end show, for each obligation
with hypotheses, a state and operands that meet them.
-/

namespace Sys2Proof.Tests

open Sys2Proof Sys2Proof.Machine

/-! ## Small states, every field a numeral -/

/-- As after reset, the unspecified elements at 0. -/
def blank : State :=
  { params := Params.ofVectors
    ctl :=
      { bh := { valid := false, clockSource := .core, divider := 0, idleClockPattern := 0,
                csDeassertPattern := 0 }
        dp := []
        dseq := .idle
        lat := { length := 0, rxReq := false }
        xfer := { err := .ok, bytes := 0, code := 0, seq := 0 }
        csLines := 0 }
    per :=
      { pcfg := { valid := false, assertLevel := false, tableLength := 0, nullCycleCount := 0,
                  outputOffset := 0 }
        st := .idle
        csSeen := false
        arm := { csEn := false, csLevel := false, dataEn := false }
        session := false
        malformedCount := 0
        primCode := 0
        cur := []
        shd := [] }
    flags := { evtIllegal := false, evtUnexpected := false, tblRange := false, primErr := false }
    act := []
    now := Moment.silent
    later := []
    buf := { rxBase := 0, rxCapacity := 0, cells := [] }
    draws := 0
    out := .quiet }

/-- Profile A of V3. -/
def profileA : Profile :=
  { csMask := 0xFFFFFFFE, clockSource := .core, divider := 3, clockPattern := 0xAAAAAAAA,
    idleClockPattern := 0x00000000, inputDelay := 33, inputDelayShort := 17 }

/-- Profile 1 of program P1: as A but for the pin and the divider. -/
def profileB : Profile :=
  { csMask := 0xFFFFFFFD, clockSource := .core, divider := 7, clockPattern := 0xAAAAAAAA,
    idleClockPattern := 0x00000000, inputDelay := 32, inputDelayShort := 16 }

/-- After `BUSINIT core, 3, 0x00000000, 0xFFFFFFFF`. -/
def withBus : State :=
  blank.setCtl { blank.ctl with
    bh := { valid := true, clockSource := .core, divider := 3, idleClockPattern := 0,
            csDeassertPattern := 0xFFFFFFFF }
    csLines := 0xFFFFFFFF }

/-- Slots 0 and 1 bound to A and B. -/
def withProfiles : State := withBus.setCtl { withBus.ctl with dp := [(0, profileA), (1, profileB)] }

/-- A transfer of 8 bytes in flight, six completed before it; its rx buffer runs over the end of BUF. -/
def inFlight : State :=
  (withProfiles.setBuf { rxBase := 0xFFFFFFFC, rxCapacity := 8, cells := [(2, 0x66), (4, 0x77)] }).setCtl { withProfiles.ctl with
    dseq := .wait
    lat := { length := 8, rxReq := true }
    xfer := { err := .ok, bytes := 4, code := 0, seq := 6 }
    csLines := 0xFFFFFFFE }

/-- After `PINIT 0, 16, 2, 0`, in a state of ST, with SHD and CUR partly filled. -/
def engine (st : TxState) : State :=
  blank.setPer { blank.per with
    pcfg := { valid := true, assertLevel := false, tableLength := 16, nullCycleCount := 2,
              outputOffset := 0 }
    st := st
    session := st != .idle
    arm := { csEn := true, csLevel := st != .idle, dataEn := st != .idle }
    cur := [(3, 0x11)]
    shd := [(3, 0xAB), (15, 0x01)] }

/-- A state with one list of inputs presented. -/
def presenting (s : State) (l : List Input) : State := { s with now := { s.now with presented := l } }

/-- Something read off the next state. -/
def after {α : Type} (r : Result) (f : State → α) : Option α :=
  match r with
  | .next t => some (f t)
  | .fault _ => none
  | .refused _ => none

/-- A response. -/
def answer (e : ErrorCode) (a b : Word) : PortOutput := .response { err := e, res0 := a, res1 := b }

/-! ## Well-formedness: the check refuses each ill-formed term -/

/-- SLOT has 8 bits (R60). -/
theorem test_wf_refuses_wide_slot : Instr.wf (.unbind 256) = false := by decide

theorem test_wf_refuses_wide_slot_of_each_command :
    Instr.wf (.bind 256 0 false false .core 0) = false ∧ Instr.wf (.setDiv 256 .core 0) = false ∧
      Instr.wf (.dispatch 256 false 0 0 0 0) = false := by decide

/-- PIN has 8 bits (R60). -/
theorem test_wf_refuses_wide_pin : Instr.wf (.bind 0 256 false false .core 0) = false := by decide

theorem test_wf_accepts_widest : Instr.wf (.bind 255 255 true true .ref 0xFFFFFFFF) = true := by decide

/-! ## Decoding: words written out from R60, R62, R67, R68 (V6) -/

/-- Bit 24 is OPC 0x01, bit 0 is SRC = ref; ARG0 = 2 (V1.3). -/
theorem test_decode_calc :
    decodeTableWord 64 (2 ^ 24 + 2 ^ 0 + 2 ^ 33) = some (.calcDelays .ref 2 0 0) := by decide

/-- V6.2, with the four words of V2.2: ARG0 = 3, ARG2 = 0xFFFFFFFF. -/
theorem test_decode_busInit :
    decodeTableWord 160 (2 ^ 28 + 3 * 2 ^ 32 + 0xFFFFFFFF * 2 ^ 96) =
      some (.busInit .core 3 0 0xFFFFFFFF) := by decide

/-- V6.4: SLOT 255, PIN 31, POL 1, PHA 0, SRC 0. -/
theorem test_decode_bind :
    decodeTableWord 32 (2 ^ 28 + 2 ^ 24 + 255 * 2 ^ 16 + 31 * 2 ^ 8 + 2 ^ 2) =
      some (.bind 255 31 true false .core 0) := by decide

/-- V6.5. -/
theorem test_decode_setDiv : decodeTableWord 32 0x12010001 = some (.setDiv 1 .ref 0) := by decide

/-- V6.6. -/
theorem test_decode_unbind : decodeTableWord 32 0x13020000 = some (.unbind 2) := by decide

/-- The words of P1 step 6. -/
theorem test_decode_dispatch :
    decodeCommand { cmd := 0x14010008, arg0 := 5, arg1 := 0x1000, arg2 := 0x2000, arg3 := 6 } =
      some (.dispatch 1 true 5 0x1000 0x2000 6) := by decide

/-- The words of P3 step 3, and V6.8. -/
theorem test_decode_pInit :
    decodeCommand { cmd := 0x20000000, arg0 := 8, arg1 := 2, arg2 := 9, arg3 := 1 } =
        some (.pInit false 8 2 9) ∧
      decodeTableWord 32 0x20000001 = some (.pInit true 0 0 0) := by decide

/-- V5.9. -/
theorem test_decode_publish :
    decodeCommand { cmd := 0x21000000, arg0 := 14, arg1 := 2, arg2 := 0, arg3 := 0 } =
      some (.publish 14 2) := by decide

/-- V5.6: bits 31:8 of ARG1 are ignored. -/
theorem test_decode_tWrite :
    decodeCommand { cmd := 0x22000000, arg0 := 3, arg1 := 0x1FF, arg2 := 0, arg3 := 0 } =
      some (.tWrite 3 0xFF) := by decide

/-- V6.11. -/
theorem test_decode_tRead : decodeTableWord 64 (0x23000000 + 3 * 2 ^ 32) = some (.tRead 3) := by
  decide

/-- V6.21 to V6.24, V6.27: every event, operands in EARG0 and EARG1. -/
theorem test_decode_events :
    decodeTableWord 32 0x90000001 = some (.eCs true) ∧ decodeTableWord 32 0x90000000 = some (.eCs false) ∧
      decodeTableWord 32 0xA0000000 = some .eData ∧ decodeTableWord 32 0x30000001 = some .eDecodeW ∧
      decodeTableWord 32 0x30000002 = some .eDecodeR ∧ decodeTableWord 32 0x30000003 = some .eDecodeRW ∧
      decodeTableWord 64 (0x40000000 + 9 * 2 ^ 32) = some (.eDone 9) ∧
      decodeTableWord 96 (0x50000000 + 5 * 2 ^ 32 + 0x17E * 2 ^ 64) = some (.eRegWr 5 0x7E) ∧
      decodeTableWord 64 (0x60000000 + 5 * 2 ^ 32) = some (.eRegRd 5) ∧
      decodeTableWord 64 (0x80000000 + 7 * 2 ^ 32) = some (.pStatus 7) := by decide

/-- V6.12 to V6.20: every IllegalCommand row. -/
theorem test_decode_illegal_commands :
    ([0x00000000, 0x15000000, 0x13000100, 0x11000010, 0x21000001, 0x14000001, 0x12000100,
      0x01010000, 0x24000000, 0x02000000, 0xFF000000] : List Word).all (fun w =>
      (decodeCommand { cmd := w, arg0 := 0, arg1 := 0, arg2 := 0, arg3 := 0 }).isNone) = true := by
  decide

/-- V6.22, V6.23, V6.25, V6.26, V6.28: every reserved event row. -/
theorem test_decode_reserved_events :
    ([0x90000002, 0x30000000, 0x40000004, 0x00000000, 0x10000000, 0x20000000, 0x70000000,
      0xB0000000, 0xF0000000, 0xA0000001] : List Word).all (fun w =>
      (decodeEvent { evt := w, earg0 := 0, earg1 := 0 }).isNone) = true := by decide

/-! ## CALC -/

/-- V1.3 (ratio at the threshold) and V1.7 (the division rounds down). -/
theorem test_calc_threshold :
    after (exec (.calcDelays .ref 2 0 0) blank) State.out = some (answer .ok 33 17) ∧
      after (exec (.calcDelays .ref 13 4 0) blank) State.out = some (answer .ok 34 18) := by decide

/-- V1.20, V1.22, V1.23: nothing wraps. -/
theorem test_calc_exact :
    after (exec (.calcDelays .ref 0xFFFFFFFF 0 0xFFFFFFFF) blank) State.out = some (answer .ok 32 16) ∧
      after (exec (.calcDelays .core 3 0xFFFFFFFF 5) blank) State.out = some (answer .ok 33 17) ∧
      after (exec (.calcDelays .core 0xFFFFFFFF 0 0) blank) State.out = some (answer .ok 32 16) := by
  decide

/-! ## BUSINIT, BIND, SETDIV, UNBIND -/

/-- V2.2. -/
theorem test_busInit_records :
    after (exec (.busInit .core 3 0 0xFFFFFFFF) blank) (fun t => (t.ctl.bh, t.ctl.csLines, t.act)) =
      some ({ valid := true, clockSource := .core, divider := 3, idleClockPattern := 0,
              csDeassertPattern := 0xFFFFFFFF }, 0xFFFFFFFF, []) := by decide

/-- V2.7. -/
theorem test_busInit_once :
    after (exec (.busInit .ref 0 0 0) withBus) (fun t => (t.ctl.bh, t.out)) =
      some (withBus.ctl.bh, answer .badState 0 0) := by decide

/-- V2.5. -/
theorem test_bind_fills_the_slot :
    after (exec (.bind 2 2 true false .ref 5) withBus) (fun t => (t.profile? 2, t.out)) =
      some (some { csMask := 0xFFFFFFFB, clockSource := .ref, divider := 5, clockPattern := 0x55555555,
                   idleClockPattern := 0xFFFFFFFF, inputDelay := 33, inputDelayShort := 17 },
        answer .ok 33 17) := by decide

/-- V2.10, V2.12, V7.3: PIN = CS_WIDTH, SLOT = N_PROF, InvalidSlot before InvalidPin. -/
theorem test_bind_refusals :
    after (exec (.bind 3 4 false false .core 0) withBus) State.out = some (answer .invalidPin 0 0) ∧
      after (exec (.bind 4 0 false false .core 0) withBus) State.out = some (answer .invalidSlot 0 0) ∧
      after (exec (.bind 9 9 false false .core 0) withBus) State.out = some (answer .invalidSlot 0 0) ∧
      after (exec (.bind 0 1 false false .core 0) withProfiles) State.out =
        some (answer .invalidSlot 0 0) := by decide

/-- V2.17: the raw divider port is read in the step (REF_DIV_RAW = 2). -/
theorem test_setDiv_samples_the_ports :
    after (exec (.setDiv 0 .ref 4) { withProfiles with now := { Moment.silent with refDivRaw := 2 } })
        (fun t => (t.profile? 0, t.out, t.ctl.bh.divider)) =
      some (some { profileA with clockSource := .ref, divider := 4, inputDelay := 32, inputDelayShort := 16 },
        answer .ok 32 16, 3) := by decide

/-- V7.2: BadState before InvalidSlot. -/
theorem test_setDiv_badState_first :
    after (exec (.setDiv 9 .core 0) blank) State.out = some (answer .badState 0 0) := by decide

/-- V2.9: the other slot stays. -/
theorem test_unbind_frees :
    after (exec (.unbind 1) withProfiles) (fun t => (t.profile? 1, t.profile? 0, t.out)) =
      some (none, some profileA, answer .ok 0 0) := by decide

/-- P2 step 20: a free slot. -/
theorem test_unbind_free_slot :
    after (exec (.unbind 2) withProfiles) State.out = some (answer .invalidSlot 0 0) := by decide

/-! ## DISPATCH, P_STATUS -/

/-- P1 step 6, with the Bus Handle as profile A left it: exactly one reconfiguration, A_DIV 7. -/
theorem test_dispatch_reconciles :
    after (exec (.dispatch 1 true 5 0x1000 0x2000 5) withProfiles)
        (fun t => (t.act, t.ctl.bh.divider, t.ctl.csLines, t.ctl.dseq)) =
      some ([.div 7, .flush, .cs 0xFFFFFFFD,
        .burst { rxReq := true, txBase := 0x1000, rxBase := 0x2000, length := 5, delayShort := 16,
                 delay := 32, clockPattern := 0xAAAAAAAA, csDeassertPattern := 0xFFFFFFFF,
                 idlePattern := 0 }], 7, 0xFFFFFFFD, .wait) := by decide

/-- V3.2 (length 4 is short) and V3.6 (capacity 7 for 8 bytes). -/
theorem test_dispatch_short_and_refused :
    after (exec (.dispatch 0 false 4 0x1000 0 0) withProfiles) State.act =
        some [.flush, .cs 0xFFFFFFFE,
          .short { rxReq := false, txBase := 0x1000, rxBase := 0, length := 4, delayShort := 17,
                   delay := 33, clockPattern := 0xAAAAAAAA, csDeassertPattern := 0xFFFFFFFF,
                   idlePattern := 0 }] ∧
      after (exec (.dispatch 0 true 8 0x1000 0x2000 7) withProfiles) (fun t => (t.out, t.ctl, t.act)) =
        some (answer .lengthMismatch 0 0, withProfiles.ctl, []) := by decide

/-- V3.12 and V3.13. -/
theorem test_status_writes_the_result :
    after (exec (.pStatus 0) inFlight) (fun t => (t.ctl.xfer, t.ctl.csLines, t.ctl.dseq)) =
        some ({ err := .ok, bytes := 8, code := 0, seq := 7 }, 0xFFFFFFFF, .idle) ∧
      after (exec (.pStatus 7) inFlight) (fun t => t.ctl.xfer) =
        some { err := .busFault, bytes := 0, code := 7, seq := 7 } := by decide

/-- V3.15. -/
theorem test_status_unexpected :
    after (exec (.pStatus 0) withProfiles) (fun t => (t.flags.word, t.ctl)) =
      some (0x2, withProfiles.ctl) := by decide

/-! ## PINIT and the engine's events (V4) -/

/-- The PINIT lines under V4: 256 cells pass, 257 do not. -/
theorem test_pInit_range :
    after (exec (.pInit false 256 0 0) blank) State.out = some (answer .ok 0 0) ∧
      after (exec (.pInit false 257 0 0) blank) State.out = some (answer .invalidRange 0 0) := by
  decide

/-- P3 step 3 (the arming) and step 24 (a session is open). -/
theorem test_pInit_arms :
    after (exec (.pInit true 8 2 0) blank) (fun t => (t.per.pcfg, t.per.arm)) =
        some ({ valid := true, assertLevel := true, tableLength := 8, nullCycleCount := 2,
                outputOffset := 0 }, { csEn := true, csLevel := true, dataEn := false }) ∧
      after (exec (.pInit false 8 2 0) (engine .reading)) State.out = some (answer .badState 0 0) := by
  decide

/-- V4.1 and V4.13. -/
theorem test_cs_assertion :
    after (exec (.eCs false) (engine .idle)) (fun t => (t.per.st, t.per.arm, t.act)) =
        some (.waitingForAddress, { csEn := true, csLevel := true, dataEn := true }, [.sStart 16 2 0]) ∧
      after (exec (.eCs false) (engine .writing)) (fun t => (t.per.st, t.per.malformedCount, t.act)) =
        some (.waitingForAddress, 1, [.sAbort, .sStart 16 2 0]) := by decide

/-- V4.7, V4.29. -/
theorem test_cs_deassertion_and_saturation :
    after (exec (.eCs true) (engine .waitingForAddress))
        (fun t => (t.per.st, t.per.csSeen, t.per.session, t.per.arm, t.act)) =
        some (.idle, true, false, { csEn := true, csLevel := false, dataEn := false }, [.sAbort]) ∧
      after (exec (.eCs false)
          ((engine .writing).setPer { (engine .writing).per with malformedCount := 0xFFFFFFFF }))
        (fun t => t.per.malformedCount) = some 0xFFFFFFFF := by decide

/-- V4.12. -/
theorem test_data_edge : after (exec .eData (engine .waitingForAddress)) id =
    some (engine .waitingForAddress) := by decide

/-- V4.8. -/
theorem test_decode_w : after (exec .eDecodeW (engine .waitingForAddress)) (fun t => t.per.st) =
    some .writing := by decide

/-- V4.9 and V4.15. -/
theorem test_decode_r :
    after (exec .eDecodeR (engine .waitingForAddress)) (fun t => t.per.st) = some .reading ∧
      after (exec .eDecodeR (engine .writing)) (fun t => (t.per.st, t.flags.word)) =
        some (.writing, 0x2) := by decide

/-- V4.10. -/
theorem test_decode_rw : after (exec .eDecodeRW (engine .waitingForAddress)) (fun t => t.per.st) =
    some .readingWriting := by decide

/-- V4.17. -/
theorem test_done_latches_the_code :
    after (exec (.eDone 9) (engine .writing))
        (fun t => (t.per.st, t.per.session, t.per.primCode, t.flags.word)) =
      some (.idle, false, 9, 0x8) := by decide

/-- P4 part b step 8: no session, PRIM_CODE stays 0. -/
theorem test_done_without_session :
    after (exec (.eDone 5) (engine .idle)) (fun t => (t.per.primCode, t.flags.word)) = some (0, 0x2) := by
  decide

/-! ## The Register Table (V5) -/

/-- V5.7 and V5.2: the last legal address is 15, and only SHD changes. -/
theorem test_tWrite :
    after (exec (.tWrite 15 0x7E) (engine .idle)) (fun t => (t.per.shd, t.per.cur)) =
        some ([(3, 0xAB), (15, 0x7E)], [(3, 0x11)]) ∧
      after (exec (.tWrite 16 1) (engine .idle)) State.out = some (answer .invalidRange 0 0) := by
  decide

/-- V5.4 (the pre-write value) and V5.8. -/
theorem test_tRead :
    after (exec (.tRead 3) (engine .idle)) State.out = some (answer .ok 0x11 0) ∧
      after (exec (.tRead 16) (engine .idle)) State.out = some (answer .invalidRange 0 0) := by decide

/-- V5.9: a cell that holds no value in SHD holds none in CUR. -/
theorem test_publish :
    after (exec (.publish 14 2) (engine .idle)) (fun t => (t.per.cur, t.per.shd)) =
        some ([(3, 0x11), (15, 0x01)], [(3, 0xAB), (15, 0x01)]) := by decide

/-- V5.11 to V5.13. -/
theorem test_publish_range :
    after (exec (.publish 16 0) (engine .idle)) State.out = some (answer .ok 0 0) ∧
      after (exec (.publish 17 0) (engine .idle)) State.out = some (answer .invalidRange 0 0) ∧
      after (exec (.publish 0xFFFFFFFF 2) (engine .idle)) State.out =
        some (answer .invalidRange 0 0) := by decide

/-- V5.15 and V5.17. -/
theorem test_regWr :
    after (exec (.eRegWr 5 0x7E) (engine .writing)) (fun t => (t.per.shd, t.per.cur)) =
        some ([(3, 0xAB), (5, 0x7E), (15, 0x01)], [(3, 0x11)]) ∧
      after (exec (.eRegWr 5 0) (engine .reading)) (fun t => (t.per.shd, t.flags.word)) =
        some ([(3, 0xAB), (15, 0x01)], 0x2) := by decide

/-- V5.18, V5.19 (TBL_RANGE) and V5.22 (the phase check comes first). -/
theorem test_regRd :
    after (exec (.eRegRd 3) (engine .reading)) State.out = some (.eresp 0x11) ∧
      after (exec (.eRegRd 16) (engine .reading)) (fun t => t.flags.word) = some 0x4 ∧
      after (exec (.eRegRd 99) (engine .idle)) (fun t => t.flags.word) = some 0x2 := by decide

/-! ## Errors, steps, records -/

/-- V7.6: every controller-role command is Busy. -/
theorem test_busy :
    ∀ i ∈ ([.calcDelays .core 0 0 0, .busInit .core 0 0 0, .bind 2 0 false false .core 0,
      .setDiv 0 .core 0, .unbind 0, .dispatch 0 false 0 0 0 0] : List Instr),
      after (exec i inFlight) State.out = some (answer .busy 0 0) := by decide

/-- V7.7: IllegalCommand before Busy. -/
theorem test_illegal_before_busy :
    after (step (inFlight.withInput (commandInput 0x15000000))) State.out =
      some (answer .illegalCommand 0 0) := by decide

/-- P4 part b step 9: a reserved event. -/
theorem test_reserved_event :
    after (step ((engine .writing).withInput (eventInput 0x70000000))) (fun t => (t.flags.word, t.per.st)) =
      some (0x1, .writing) := by decide

/-- V7.10: the edge is handled before the completion presented with it. -/
theorem test_edge_wins :
    after (step (presenting (engine .reading) [eventInput 0x40000000, eventInput 0x90000001]))
        (fun t => (t.per.st, t.act, t.now.presented)) =
      some (.idle, [.sAbort], [eventInput 0x40000000]) := by decide

/-- R33, R70: FLAGS as a word, the records of V3.2's A_CS and of A_DIV 7. -/
theorem test_records :
    (Action.cs 0xFFFFFFFE).record = { actw := 0x70000000, payload := [0xFFFFFFFE] } ∧
      (Action.div 7).record = { actw := 0x20000000, payload := [7] } ∧
      (engine .readingWriting).statusPort.phaseExpect = 4 ∧ ErrorCode.code .invalidRange = 9 := by
  decide

/-- R76: WRITE is one TWRITE a byte. -/
theorem test_pseudo_write : pseudoWrite 7 [1, 2] = [.tWrite 7 1, .tWrite 8 2] := by decide

/-- R76: WRITE stops at the first refusal: the first byte past the table, at its end and at the last address
there is. -/
theorem test_pseudo_write_stops :
    after (execWrite 15 [1, 2, 3] (engine .idle)) (fun t => (t.out, t.per.shd)) =
        some (answer .invalidRange 0 0, setKey (engine .idle).per.shd 15 1) ∧
      after (execWrite 0xFFFFFFFF [1, 2] (engine .idle)) (fun t => (t.out, t.per.shd)) =
        some (answer .invalidRange 0 0, (engine .idle).per.shd) := by decide

/-- R44: with status 0 the 8 bytes from the base on are written, here past the last address and on from 0;
their neighbour is not. -/
theorem test_receive :
    after (exec (.pStatus 0) inFlight) (fun t => (t.buf.cells.map Prod.fst, Memory.read t.buf.cells 4)) =
      some ([0, 1, 2, 3, 4, 0xFFFFFFFC, 0xFFFFFFFD, 0xFFFFFFFE, 0xFFFFFFFF], some 0x77) := by decide

/-- R44: DISPATCH hands its rx buffer to the primitive and writes no byte of BUF. -/
theorem test_dispatch_base :
    after (exec (.dispatch 0 true 4 0x1000 0x2000 6) withProfiles) (fun t => t.buf) =
      some { rxBase := 0x2000, rxCapacity := 6, cells := [] } := by decide

/-! ## Witnesses: what each obligation assumes can be met, each clause of it -/

/-- DecodeOfEncodeIsTheInstruction: both indexes at their largest. -/
theorem witness_encode : Instr.wf (.bind 255 255 true true .ref 0xFFFFFFFF) = true ∧
    Instr.wf (.eRegRd 0xFFFFFFFF) = true := by decide

/-- DecodedInstructionEncodesToItsWord, CommandWordsAreLegalByTheirFields. -/
theorem witness_decoded :
    decodeInput (.command { cmd := 0x11FF1F04, arg0 := 0, arg1 := 1, arg2 := 2, arg3 := 3 }) =
        some (.bind 255 31 true false .core 0) ∧
      decodeInput (.event { evt := 0x90000001, earg0 := 5, earg1 := 6 }) = some (.eCs true) := by
  decide

/-- EventWordsAreTheTenListed, second part: a CMD word with the value of an event word. -/
theorem witness_event_word :
    (decodeEvent { evt := 0x30000003, earg0 := 0, earg1 := 0 }).isSome = true ∧
      (decodeCommand { cmd := 0x30000003, arg0 := 0, arg1 := 0, arg2 := 0, arg3 := 0 }).isNone = true := by
  decide

/-- StepRunsTheDecodedInput, second part; the first part at the same state. -/
theorem witness_step :
    (presenting blank [commandInput 0x23000000 3]).now.rst = false ∧
      (presenting blank [commandInput 0x23000000 3]).now.presented = [commandInput 0x23000000 3] ∧
      (presenting blank [commandInput 0x23000000 3]).arbitrate = some (commandInput 0x23000000 3, blank) ∧
      decodeInput (commandInput 0x23000000 3) = some (.tRead 3) := by decide

/-- StepRunsTheDecodedInput and ArbiterTakesOneInput where the arbiter is free: a command and an event. -/
theorem witness_arbiter_is_free :
    ∃ inp r, (presenting blank [commandInput 0x23000000 3, eventInput 0x80000000]).arbitrate = some (inp, r) ∧
      (decodeInput inp).isSome = true := by
  cases h : (presenting blank [commandInput 0x23000000 3, eventInput 0x80000000]).arbitrate with
  | none => exact absurd (arbitrate_none.mp h) (by decide)
  | some q =>
    obtain ⟨inp, r⟩ := q
    refine ⟨inp, r, rfl, ?_⟩
    obtain ⟨rest, k, hm, -⟩ := arbitrate_some h
    have hi : inp ∈ [commandInput 0x23000000 3, eventInput 0x80000000] := mem_picks (mem_candidates hm)
    simp only [List.mem_cons, List.not_mem_nil, or_false] at hi
    rcases hi with rfl | rfl <;> decide

/-- SelectEdgeGoesBeforePrimitiveEvents: an edge presented after a completion. -/
theorem witness_select_edge :
    (presenting (engine .reading) [eventInput 0x40000000, eventInput 0x90000001]).arbitrate =
        some (eventInput 0x90000001, presenting (engine .reading) [eventInput 0x40000000]) ∧
      isSelectEdge (eventInput 0x90000001) = true := by decide

/-- CoincidentEdgeWinsOverCompletion. -/
theorem witness_coincident :
    decodeEvent { evt := 0x90000001, earg0 := 0, earg1 := 0 } = some (.eCs true) ∧
      decodeEvent { evt := 0x40000000, earg0 := 9, earg1 := 0 } = some (.eDone 9) ∧
      (presenting (engine .writing) [eventInput 0x40000000 9, eventInput 0x90000001]).now.presented =
        [.event { evt := 0x40000000, earg0 := 9, earg1 := 0 },
          .event { evt := 0x90000001, earg0 := 0, earg1 := 0 }] ∧
      (engine .writing).per.pcfg.valid = true ∧ true ≠ (engine .writing).per.pcfg.assertLevel ∧
      (engine .writing).per.st ≠ .idle := by decide

/-- IllegalCommandIsRefusedFirst, ReservedEventSetsEvtIllegalOnly: the states, and a word of each kind R69
lists. -/
theorem witness_undecodable :
    (inFlight.withInput (commandInput 0x15000000)).now.presented = [commandInput 0x15000000] ∧
      (inFlight.withInput (commandInput 0x15000000)).now.rst = false ∧
      decodeInput (commandInput 0x15000000) = none ∧ decodeInput (eventInput 0x70000000) = none ∧
      (0xF0000000 : Word).extractLsb' 28 4 = 0xF ∧ (0x40000004 : Word).extractLsb' 2 26 ≠ 0 ∧
      (0x90000002 : Word).extractLsb' 28 4 = 0x9 ∧ (0x90000002 : Word).getLsbD 1 = true := by decide

/-- The same two beside another input: two undecodable words of one port, whichever the arbiter hands over. -/
theorem witness_undecodable_beside :
    (∃ c r, (presenting inFlight [commandInput 0x15000000, commandInput 0x16000000]).arbitrate =
        some (.command c, r) ∧ decodeCommand c = none) ∧
      ∃ e r, (presenting inFlight [eventInput 0x70000000, eventInput 0x90000002]).arbitrate =
        some (.event e, r) ∧ decodeEvent e = none := by
  constructor
  · cases h : (presenting inFlight [commandInput 0x15000000, commandInput 0x16000000]).arbitrate with
    | none => exact absurd (arbitrate_none.mp h) (by decide)
    | some q =>
      obtain ⟨rest, k, hm, -⟩ := arbitrate_some h
      have hi : q.1 ∈ [commandInput 0x15000000, commandInput 0x16000000] := mem_picks (mem_candidates hm)
      simp only [List.mem_cons, List.not_mem_nil, or_false] at hi
      obtain ⟨inp, r⟩ := q
      rcases hi with rfl | rfl <;> exact ⟨_, r, rfl, by decide⟩
  · cases h : (presenting inFlight [eventInput 0x70000000, eventInput 0x90000002]).arbitrate with
    | none => exact absurd (arbitrate_none.mp h) (by decide)
    | some q =>
      obtain ⟨rest, k, hm, -⟩ := arbitrate_some h
      have hi : q.1 ∈ [eventInput 0x70000000, eventInput 0x90000002] := mem_picks (mem_candidates hm)
      simp only [List.mem_cons, List.not_mem_nil, or_false] at hi
      obtain ⟨inp, r⟩ := q
      rcases hi with rfl | rfl <;> exact ⟨_, r, rfl, by decide⟩

/-- WaitingKeepsTheBlock: with nothing to come, and with a moment to come by which an address has been
stored to twice, and another has not. -/
theorem witness_waiting :
    inFlight.now.rst = false ∧ inFlight.now.presented = [] ∧ inFlight.later = [] ∧
      after (step { inFlight with later := [{ stored := [(5, 1), (5, 2)], moment := Moment.silent }] })
        (fun t => (Memory.read t.buf.cells 5, Memory.read t.buf.cells 4, t.later)) =
          some (some 2, some 0x77, []) := by decide

/-- OnlyStatusOrResetEndsTheWait, ActionStreamOnlyGrows, FlagsAreSticky: a transfer in flight, flags set, an
event that is no P_STATUS. -/
theorem witness_wait :
    after (step (presenting { inFlight with flags :=
        { evtIllegal := true, evtUnexpected := true, tblRange := true, primErr := true } }
        [eventInput 0xA0000000])) (fun t => (t.ctl.dseq, t.flags.word, t.act)) = some (.wait, 0xF, []) ∧
      decodeInput (eventInput 0xA0000000) = some .eData ∧ inFlight.now.rst = false := by decide

/-- ResetLeavesTheStateOfTheResetTable: RST asserted in a transfer. -/
theorem witness_reset :
    ({ inFlight with now := { inFlight.now with rst := true } } : State).now.rst = true := by decide

/-- CoreDerivedRatioIsTheDivider: the edges 2, 3, 6, 7 of its ranges, and a numerator below core_div (V1.10). -/
theorem witness_core_ratio :
    (2 : Word).toNat ≤ 2 ∧ 3 ≤ (3 : Word).toNat ∧ (6 : Word).toNat ≤ 6 ∧ 7 ≤ (7 : Word).toNat ∧
      ((0 : Word).toNat + 1) * ((0 : Word).toNat + 1) < (9 : Word).toNat + 1 := by decide

/-- ThresholdTable: the edges of its ranges. -/
theorem witness_thresholds :
    (lookupDelays .ref 2, lookupDelays .ref 3, lookupDelays .ref 12, lookupDelays .ref 13) =
        (calTable.near, calTable.middle, calTable.middle, calTable.far) ∧
      (lookupDelays .core 3, lookupDelays .core 4, lookupDelays .core 7, lookupDelays .core 8) =
        (calTable.near, calTable.middle, calTable.middle, calTable.far) := by decide

/-- ChipSelectMaskBits: pin 31, with and without the all-ones pattern (V2, below the table). -/
theorem witness_mask : csMask 0xFFFFFFFF 31 = 0x7FFFFFFF ∧ csMask 0x0000000F 2 = 0x00000004 := by
  decide

/-- The controller-role statements: a transfer in flight; idle without a handle; with one; SLOT = N_PROF;
slot N_PROF - 1 free, slot 1 bound; PIN = CS_WIDTH and CS_WIDTH - 1. -/
theorem witness_controller :
    inFlight.ctl.dseq = .wait ∧ (blank.ctl.dseq = .idle ∧ blank.ctl.bh.valid = false) ∧
      (withProfiles.ctl.dseq = .idle ∧ withProfiles.ctl.bh.valid = true) ∧
      withProfiles.params.nProf ≤ 4 ∧
      (3 < withProfiles.params.nProf ∧ withProfiles.profile? 3 = none ∧ withProfiles.bound 3 = false) ∧
      (1 < withProfiles.params.nProf ∧ withProfiles.profile? 1 = some profileB ∧
        withProfiles.bound 1 = true) ∧
      withProfiles.params.csWidth ≤ 4 ∧ 3 < withProfiles.params.csWidth := by decide

/-- DispatchEmitsItsStepsInOrder: capacity one short, equal, and not asked for. -/
theorem witness_capacity :
    (7 : Word).toNat < (8 : Word).toNat ∧ (8 : Word).toNat ≤ (8 : Word).toNat ∧
      (4 : Word).toNat < 5 ∧ ¬(5 : Word).toNat < 5 := by decide

/-- ReconciliationIsIdempotent: the handle agrees with A, B differs in the divider alone, and the three
steps run. -/
theorem witness_idempotent :
    withProfiles.ctl.bh.clockSource = profileA.clockSource ∧
      withProfiles.ctl.bh.divider = profileA.divider ∧
      withProfiles.ctl.bh.idleClockPattern = profileA.idleClockPattern ∧
      withProfiles.profile? 1 = some profileB ∧ profileB.clockSource = profileA.clockSource ∧
      profileB.idleClockPattern = profileA.idleClockPattern ∧ profileB.divider ≠ profileA.divider ∧
      after (exec (.dispatch 1 false 4 0 0 0) withProfiles) State.out = some (answer .ok 0 0) ∧
      after (execAll [.dispatch 1 false 4 0 0 0, .pStatus 0, .dispatch 1 true 5 0 0 5] withProfiles)
        State.out = some (answer .ok 0 0) := by decide

/-- StatusEndsTheTransfer: a status of each kind. -/
theorem witness_status :
    withProfiles.ctl.dseq = .idle ∧ inFlight.ctl.dseq = .wait ∧ (0xFFFFFFFF : Word) ≠ 0 := by decide

/-- CompletionFillsTheReceiveBuffer: the first and the last byte of a buffer that runs over the end of BUF,
the byte after it, which a capacity of 9 takes in, and a transfer with no buffer. -/
theorem witness_receive :
    inFlight.ctl.dseq = .wait ∧ inFlight.ctl.lat.rxReq = true ∧
      0 < inFlight.ctl.lat.length.toNat ∧ 7 < inFlight.ctl.lat.length.toNat ∧
      bufferAddress inFlight.buf.rxBase 0 = 0xFFFFFFFC ∧ bufferAddress inFlight.buf.rxBase 7 = 3 ∧
      bufferAddress inFlight.buf.rxBase 8 = 4 ∧ ¬8 < inFlight.ctl.lat.length.toNat ∧
      ¬8 < inFlight.buf.rxCapacity.toNat ∧
      ({ inFlight.buf with rxCapacity := 9 } : BufferSpace).rxSize inFlight.ctl.lat = 9 ∧
      after (exec (.dispatch 1 false 4 0 0 9) withProfiles)
        (fun t => (t.ctl.dseq, t.ctl.lat.rxReq, t.buf.rxSize t.ctl.lat)) = some (.wait, false, 0) := by decide

/-- R44, U8: of a buffer with room for 3 bytes, of which 1 is delivered, what the other 2 hold is open, and no
byte before it or behind it changes. -/
theorem test_receive_leaves_the_rest_open (m : Memory) :
    Memory.read (receiveBytes 1 0x2000 0 3 m) 0x2000 = some (Config.freeByte 0) ∧
      Memory.read (receiveBytes 1 0x2000 0 3 m) 0x2002 =
        (if Config.freeBool 2 then some (Config.freeByte 2) else Memory.read m 0x2002) ∧
      Memory.read (receiveBytes 1 0x2000 0 3 m) 0x2003 = Memory.read m 0x2003 := by
  refine ⟨(lookupKey_receiveBytes_same (j := 0) m (by decide) (by decide)).trans rfl,
    (lookupKey_receiveBytes_same (j := 2) m (by decide) (by decide)).trans rfl,
    lookupKey_receiveBytes_other 3 m ?_⟩
  decide

/-- PInitConfiguresTheEngine: TABLE_MAX + 1 and TABLE_MAX. -/
theorem witness_pInit :
    (engine .readingWriting).per.st ≠ .idle ∧ blank.per.st = .idle ∧
      blank.params.tableMax < (257 : Word).toNat ∧ (256 : Word).toNat ≤ blank.params.tableMax := by
  decide

/-- The statements of E_CS and TransitionTable: a configured engine in Idle and in every other state, SESSION
as R135 has it, both levels. -/
theorem witness_engine :
    ([.idle, .waitingForAddress, .writing, .reading, .readingWriting].all fun st =>
      (engine st).per.pcfg.valid && (engine st).per.session == (st != .idle) &&
        (engine st).per.st == st) = true ∧
      (engine .idle).per.pcfg.assertLevel = false ∧ true ≠ (engine .idle).per.pcfg.assertLevel := by
  decide

/-- DecodeClassifiesTheTransaction, DoneClosesTheSession: in and out of their states; codes 0 and not 0. -/
theorem witness_decode_done :
    (engine .waitingForAddress).per.st = .waitingForAddress ∧
      (engine .idle).per.st ≠ .waitingForAddress ∧ (engine .idle).per.session = false ∧
      (engine .reading).per.session = true ∧ (9 : Word) ≠ 0 := by decide

/-- UnconfiguredEngineIgnoresTheLink. -/
theorem witness_unconfigured :
    blank.per.pcfg.valid = false ∧ blank.per.st = .idle ∧ blank.per.session = false := by decide

/-- The table statements: before PINIT; addresses 16 and 15 of 16; a range one too long, one that fits, and
the empty one at the end. -/
theorem witness_table :
    blank.per.pcfg.valid = false ∧ (engine .idle).per.pcfg.valid = true ∧
      (engine .idle).per.pcfg.tableLength.toNat ≤ (16 : Word).toNat ∧
      (15 : Word).toNat < (engine .idle).per.pcfg.tableLength.toNat ∧
      (engine .idle).per.pcfg.tableLength.toNat < (14 : Word).toNat + (3 : Word).toNat ∧
      (14 : Word).toNat + (2 : Word).toNat ≤ (engine .idle).per.pcfg.tableLength.toNat ∧
      (16 : Word).toNat + (0 : Word).toNat ≤ (engine .idle).per.pcfg.tableLength.toNat ∧
      Memory.read (engine .idle).per.cur 3 = some 0x11 ∧ Memory.read (engine .idle).per.cur 15 = none := by
  decide

/-- BusWriteWritesTheShadowCell, BusReadReadsTheCurrentCell: in phase in both states each, and out of it. -/
theorem witness_phase :
    (engine .writing).per.st = .writing ∧ (engine .readingWriting).per.st = .readingWriting ∧
      (engine .reading).per.st = .reading ∧ (engine .waitingForAddress).per.st = .waitingForAddress := by
  decide

/-- LastPublishDecidesEveryRead: cell 3 is published, written again, and not published again; the PUBLISH of
the run covers cells 15 and 16 only. -/
theorem witness_publish :
    after (exec (.publish 3 2) (engine .idle)) State.out = some (answer .ok 0 0) ∧
      after (execAll [.publish 3 2, .tWrite 3 0x55, .publish 15 1] (engine .idle))
        (fun t => Memory.read t.per.cur 3) = some (some 0xAB) ∧
      ¬((15 : Word).toNat ≤ 3 ∧ 3 < (15 : Word).toNat + (1 : Word).toNat) := by decide

/-- BusyRefusesTheControllerRole, RefusalsArePrecise, CommandsAreAnsweredAndEventsAreNot: commands of both
roles, one refused and one done, and an event. -/
theorem witness_roles :
    controllerCommand (.unbind 0) = true ∧ peripheralCommand (.tRead 3) = true ∧
      after (exec (.tRead 16) (engine .idle)) State.out = some (answer .invalidRange 0 0) ∧
      after (exec (.tRead 3) (engine .idle)) State.out = some (answer .ok 0x11 0) ∧
      after (exec .eData (engine .idle)) State.out = some .quiet := by decide

/-- ExpectedInputsSetNoErrorFlag: every input with a condition, in a state that expects it. -/
theorem witness_expected :
    Expected (engine .waitingForAddress) .eDecodeW ∧ Expected (engine .waitingForAddress) .eDecodeR ∧
      Expected (engine .waitingForAddress) .eDecodeRW ∧ Expected (engine .reading) (.eDone 9) ∧
      Expected (engine .writing) (.eRegWr 15 0) ∧ Expected (engine .readingWriting) (.eRegRd 0) ∧
      Expected inFlight (.pStatus 7) := by
  refine ⟨?_, ?_, ?_, ?_, ?_, ?_, ?_⟩ <;> simp only [Expected] <;> decide

/-- StepKeepsTheInvariant: a state with a session open and a cell in both banks. -/
theorem witness_invariant : (engine .writing).Inv := by
  have hread : ∀ a, (Memory.read (engine .writing).per.cur a).isSome = true → a = 3 := by
    intro a h
    by_contra hne
    have h3 : ¬3 = a := fun h3 => hne h3.symm
    simp [engine, Memory.read, lookupKey, State.setPer, h3] at h
  refine ⟨⟨by decide, by decide, by decide, by decide⟩, ⟨by decide, by decide, by decide, by decide⟩,
    ?_, ?_, ?_, ?_⟩
  · intro a h
    rw [hread a h]
    decide
  · simp [engine, EngineInvariant, State.setPer, blank, Params.tableMax, Params.ofVectors]
  · simp [engine, ControllerInvariant, State.setPer, blank, State.profile?]
  · simp [engine, ResultInvariant, State.setPer, blank]

/-- BusHandleHasTwoWriters: each of the two writers writes, in its own case of `valid`. -/
theorem witness_bus_writers :
    blank.ctl.bh.valid = false ∧ withProfiles.ctl.bh.valid = true ∧
      after (exec (.busInit .ref 0 0 0) blank) (fun t => decide (t.ctl.bh ≠ blank.ctl.bh)) = some true ∧
      after (exec (.dispatch 1 false 4 0 0 0) withProfiles)
        (fun t => decide (t.ctl.bh ≠ withProfiles.ctl.bh)) = some true := by decide

/-- BanksChangeOnlyByTheirWriters: an instruction that is no PUBLISH, one that is no writer of SHD either. -/
theorem witness_banks :
    (∀ address length, Instr.tWrite 15 0 ≠ .publish address length) ∧
      (∀ address byte, Instr.tRead 3 ≠ .tWrite address byte) ∧
      (∀ address byte, Instr.tRead 3 ≠ .eRegWr address byte) ∧
      after (exec (.tWrite 15 0) (engine .idle)) State.out = some (answer .ok 0 0) := by
  refine ⟨?_, ?_, ?_, by decide⟩ <;> intro a b h <;> cases h

/-- PortsCarryTheState: operands with an rx request and without one, and the first reserved bit of FLAGS. -/
theorem witness_ports :
    (primitiveArgs profileA 0xFFFFFFFF true 8 0x1000 0x2000).rxReq = true ∧
      (Action.burst (primitiveArgs profileA 0xFFFFFFFF true 8 0x1000 0x2000)).record.actw = 0x90000001 ∧
      (primitiveArgs profileA 0xFFFFFFFF false 4 0x1000 0).rxReq = false ∧
      (engine .idle).statusPort.flags.getLsbD 4 = false := by decide

/-- RegistersHaveTheirWriters: each writer writes its register. -/
theorem witness_register_writers :
    after (exec (.pInit true 0 0 0) blank) (fun t => decide (t.per.pcfg ≠ blank.per.pcfg)) = some true ∧
      after (exec (.pStatus 0) inFlight) (fun t => decide (t.ctl.xfer ≠ inFlight.ctl.xfer)) = some true ∧
      after (exec (.eCs false) (engine .writing)) (fun t => t.per.malformedCount) = some 1 ∧
      after (exec (.eDone 9) (engine .writing)) (fun t => t.per.primCode) = some 9 ∧
      after (exec (.setDiv 0 .ref 0) withProfiles)
        (fun t => decide (t.profile? 0 ≠ withProfiles.profile? 0)) = some true ∧
      after (exec (.dispatch 1 true 4 0 0x2000 4) withProfiles)
        (fun t => (t.ctl.dseq, t.ctl.lat.rxReq, t.ctl.csLines, t.buf.rxBase, decide (t.act ≠ []))) =
          some (.wait, true, 0xFFFFFFFD, 0x2000, true) ∧
      after (exec (.eCs true) (engine .writing)) (fun t => (t.per.st, t.per.session, t.per.csSeen)) =
        some (.idle, false, true) ∧
      after (exec (.eCs false) (engine .idle)) (fun t => t.per.arm) =
        some { csEn := true, csLevel := true, dataEn := true } ∧
      after (exec (.eRegWr 16 0) (engine .writing)) (fun t => t.flags.word) = some 4 ∧
      after (exec (.eDone 9) (engine .writing)) (fun t => t.flags.word) = some 8 ∧
      after (exec (.pStatus 0) withProfiles) (fun t => t.flags.word) = some 2 := by decide

/-- RolesDoNotInterfere: one role's step in two states that differ in the other role's state. -/
theorem witness_independence :
    (blank.params = (engine .writing).params ∧ blank.now = (engine .writing).now ∧
        blank.draws = (engine .writing).draws ∧ blank.ctl = (engine .writing).ctl) ∧
      controllerStep (.busInit .core 0 0 0) = true ∧ controllerStep (.eCs true) = false ∧
      blank.per = inFlight.per ∧ blank.params = inFlight.params := by decide

/-- PseudoWriteStopsAtTheFirstRefusal: unconfigured; a WRITE that fits to the last cell, one that does not,
one past the table. -/
theorem witness_pseudo_write :
    blank.per.pcfg.valid = false ∧ (engine .idle).per.pcfg.valid = true ∧
      (14 : Word).toNat + ([1, 2] : List Byte).length ≤ (engine .idle).per.pcfg.tableLength.toNat ∧
      (engine .idle).per.pcfg.tableLength.toNat < (15 : Word).toNat + ([1, 2] : List Byte).length ∧
      (engine .idle).per.pcfg.tableLength.toNat ≤ (0xFFFFFFFF : Word).toNat := by decide

/-- UnspecifiedElementsAreNeverRead: two states that meet the invariant and differ in an unspecified element,
the chip-select lines before BUSINIT. -/
theorem witness_unspecified :
    blank.Inv ∧ (blank.setCtl { blank.ctl with csLines := 7 }).Inv ∧
      AgreeWhereSpecified blank (blank.setCtl { blank.ctl with csLines := 7 }) := by
  have hinv : ∀ lines, (blank.setCtl { blank.ctl with csLines := lines }).Inv := by
    intro lines
    refine ⟨⟨rfl, rfl, rfl, rfl⟩, ⟨rfl, rfl, rfl, rfl⟩, ?_, ?_, ?_, ?_⟩
    · intro a h
      exact absurd h (by simp [blank, Memory.read, State.setCtl])
    · simp [blank, EngineInvariant, State.setCtl]
    · simp [blank, ControllerInvariant, State.setCtl, State.profile?]
    · simp [blank, ResultInvariant, State.setCtl]
  refine ⟨hinv 0, hinv 7, ?_⟩
  refine ⟨rfl, rfl, rfl, rfl, rfl, rfl, ?_, rfl, rfl, rfl, ?_, rfl, rfl, ?_, rfl, rfl, ?_, rfl, rfl, rfl, rfl, ?_,
    rfl, rfl, rfl, rfl⟩ <;> intro h <;> exact absurd h (by decide)

end Sys2Proof.Tests
end

section
/-! PROOFS of the family 00_scope.md: the arbiter hands over one input and keeps the rest (O7), every step
completes (O15), and a step is the meaning of the input handed over (O6).
-/

namespace Sys2Proof.Machine

/-! ## The arbiter -/

/-- A pick is a place in the list: the input that stands there, and what stands before and behind it. -/
theorem picks_splits {l : List Input} {q : Input × List Input} (h : q ∈ picks l) :
    ∃ before after, l = before ++ q.1 :: after ∧ q.2 = before ++ after := by
  induction l generalizing q with
  | nil => simp [picks] at h
  | cons i l ih =>
    simp only [picks, List.mem_cons, List.mem_map] at h
    obtain rfl | ⟨p, hp, rfl⟩ := h
    · exact ⟨[], l, rfl, rfl⟩
    · obtain ⟨before, after, hl, hrest⟩ := ih hp
      exact ⟨i :: before, after, congrArg (i :: ·) hl, congrArg (i :: ·) hrest⟩

/-- Where something is presented, the arbiter hands an input over. -/
theorem exists_arbitrate_eq_some {s : State} (h : s.now.presented ≠ []) :
    ∃ inp r, s.arbitrate = some (inp, r) := by
  obtain ⟨⟨inp, r⟩, ha⟩ := Option.ne_none_iff_exists'.mp (mt arbitrate_none.mp h)
  exact ⟨inp, r, ha⟩

/-- Settles O7: an input presented is always handed over, and it is one pick of those presented; the state
left differs from the one before in the list of the presented inputs and the counter of draws alone. -/
theorem arbiterTakesOneInput : Obligations.ArbiterTakesOneInput := by
  refine ⟨fun s => exists_arbitrate_eq_some, fun s r inp h => ?_⟩
  obtain ⟨rest, k, hmem, rfl⟩ := arbitrate_some h
  exact ⟨picks_splits (mem_candidates hmem), rfl, rfl, rfl, rfl, rfl, rfl, rfl, rfl, rfl, rfl, rfl⟩

/-! ## Steps -/

/-- The meaning of every instruction ends in a next state: a check that fails is a refusal by the response
port (R170), an unexpected event a flag, and no arm is a fault or a refusal of the model. -/
theorem exec_completes (i : Instr) (s : State) : ∃ t, exec i s = .next t := by
  cases i <;> exact ⟨_, rfl⟩

/-- Settles O15, by the four kinds of step: a reset, a wait and an undecodable input answer a next state by
themselves, a decoded input by the meaning of its instruction. -/
theorem everyStepCompletes : Obligations.EveryStepCompletes := by
  intro s
  obtain ⟨-, hstep⟩ | ⟨-, -, hstep⟩ | ⟨inp, r, -, -, ⟨i, -, hstep⟩ | ⟨-, hstep⟩⟩ := step_cases s
  · exact ⟨s.takeReset, hstep⟩
  · exact ⟨s.await, hstep⟩
  · exact hstep ▸ exec_completes i r
  · exact ⟨r.undecoded inp, hstep⟩

/-- With RST released a step handles the input that the arbiter hands over, in the state it leaves. -/
theorem step_eq_handle {s r : State} {inp : Input} (hrst : s.now.rst = false)
    (ha : s.arbitrate = some (inp, r)) : step s = r.handle inp := by
  simp [step, hrst, ha]

/-- To handle a decodable input is to run the meaning of its instruction. -/
theorem handle_eq_exec {inp : Input} {i : Instr} (hd : decodeInput inp = some i) (s : State) :
    s.handle inp = exec i s := by
  simp [State.handle, hd]

/-- Settles O6: the step handles the input handed over by the meaning of its decoding, and an input presented
alone is the one handed over. -/
theorem stepRunsTheDecodedInput : Obligations.StepRunsTheDecodedInput := by
  have runs : ∀ (s r : State) (inp : Input) (i : Instr), s.now.rst = false →
      s.arbitrate = some (inp, r) → decodeInput inp = some i → step s = exec i r :=
    fun s r inp i hrst ha hd => (step_eq_handle hrst ha).trans (handle_eq_exec hd r)
  exact ⟨runs, fun s inp i hrst hp hd => runs s _ inp i hrst (arbitrate_single hp) hd⟩

end Sys2Proof.Machine
end

section
/-! PROOFS of the family 10_state.md, the invariant: the two roles' parts of `State.Inv`, what each effect makes of
its own part, and with them the machine after reset (O52) and every step (O53).
-/

namespace Sys2Proof.Machine

/-! ## Slots after a write and after a release -/

theorem profile?_setProfile (s : State) (slot i : Nat) (p : Profile) :
    (s.setProfile slot p).profile? i = if i = slot then some p else s.profile? i := by
  split
  next h => exact h ▸ lookupKey_setKey_same s.ctl.dp slot p
  next h => exact lookupKey_setKey_other s.ctl.dp p h

theorem profile?_freeProfile (s : State) (slot i : Nat) :
    (s.freeProfile slot).profile? i = if i = slot then none else s.profile? i :=
  lookupKey_eraseKey s.ctl.dp slot i

theorem eq_of_profile?_setProfile_ne {s : State} {slot i : Nat} {p : Profile}
    (h : (s.setProfile slot p).profile? i ≠ s.profile? i) : i = slot := by
  by_contra hi
  exact h ((profile?_setProfile s slot i p).trans (if_neg hi))

theorem eq_of_profile?_freeProfile_ne {s : State} {slot i : Nat}
    (h : (s.freeProfile slot).profile? i ≠ s.profile? i) : i = slot := by
  by_contra hi
  exact h ((profile?_freeProfile s slot i).trans (if_neg hi))

/-! ## The two roles' parts of the invariant (R184) -/

/-- What the invariant says of the controller role and of the buffer space. -/
structure State.ControllerSound (s : State) : Prop where
  dpRising : rising s.ctl.dp = true
  dpBelow : keysBelow s.params.nProf s.ctl.dp = true
  bufRising : rising s.buf.cells = true
  bufBelow : keysBelow (2 ^ 32) s.buf.cells = true
  profiles : ∀ i p, s.profile? i = some p → s.ctl.bh.valid = true ∧ ProfileInvariant s p
  busInFlight : s.ctl.dseq = .wait → s.ctl.bh.valid = true
  linesReleased : s.ctl.bh.valid = true → s.ctl.dseq = .idle → s.ctl.csLines = s.ctl.bh.csDeassertPattern
  roomInFlight : s.ctl.dseq = .wait → s.ctl.lat.rxReq = true →
    s.ctl.lat.length.toNat ≤ s.buf.rxCapacity.toNat
  result : s.ctl.xfer.err = .ok ∧ s.ctl.xfer.code = 0 ∨
    s.ctl.xfer.err = .busFault ∧ s.ctl.xfer.code ≠ 0 ∧ s.ctl.xfer.bytes = 0

/-- What the invariant says of the peripheral role and of FLAGS. -/
structure State.PeripheralSound (s : State) : Prop where
  curRising : rising s.per.cur = true
  shdRising : rising s.per.shd = true
  curBelow : keysBelow s.params.tableMax s.per.cur = true
  shdBelow : keysBelow s.params.tableMax s.per.shd = true
  curFromShd : CurFromShd s
  engine : EngineInvariant s
  primErr : s.flags.primErr = true ↔ s.per.primCode ≠ 0

theorem inv_iff {s : State} : s.Inv ↔ s.ControllerSound ∧ s.PeripheralSound := by
  constructor
  · rintro ⟨⟨c1, c2, c3, c4⟩, ⟨k1, k2, k3, k4⟩, hcur, heng, ⟨p1, p2, p3, p4⟩, r1, r2⟩
    exact ⟨⟨c1, k1, c4, k4, p1, p2, p3, p4, r1⟩, ⟨c2, c3, k2, k3, hcur, heng, r2⟩⟩
  · rintro ⟨⟨c1, k1, c4, k4, p1, p2, p3, p4, r1⟩, ⟨c2, c3, k2, k3, hcur, heng, r2⟩⟩
    exact ⟨⟨c1, c2, c3, c4⟩, ⟨k1, k2, k3, k4⟩, hcur, heng, ⟨p1, p2, p3, p4⟩, r1, r2⟩

namespace State.ControllerSound

variable {s t : State}

/-- The controller's part speaks of the parameters, the controller role and the buffer space alone. -/
theorem congr (h : s.ControllerSound) (hp : t.params = s.params) (hc : t.ctl = s.ctl)
    (hb : t.buf = s.buf) : t.ControllerSound := by
  obtain ⟨params, ctl, per, flags, act, now, later, buf, draws, out⟩ := t
  obtain rfl : params = s.params := hp
  obtain rfl : ctl = s.ctl := hc
  obtain rfl : buf = s.buf := hb
  exact { h with }

/-- BUSINIT: without a Bus Handle there was no profile to keep well made (R14, R90). -/
theorem busInit (h : s.ControllerSound) {b : BusHandle} (hv : s.ctl.bh.valid = false) (hb : b.valid = true) :
    (s.setCtl { s.ctl with bh := b, csLines := b.csDeassertPattern }).ControllerSound :=
  { h with
    profiles := fun i p hp => absurd (h.profiles i p hp).1 (by simp [hv])
    busInFlight := fun _ => hb
    linesReleased := fun _ _ => rfl }

/-- BIND and SETDIV: a well-made profile in an existing slot. -/
theorem setProfile (h : s.ControllerSound) {slot : Nat} {p : Profile} (hv : s.ctl.bh.valid = true)
    (hs : slot < s.params.nProf) (hp : ProfileInvariant s p) : (s.setProfile slot p).ControllerSound :=
  { h with
    dpRising := rising_setKey _ _ h.dpRising
    dpBelow := keysBelow_setKey _ hs h.dpBelow
    profiles := fun i q hq => by
      rw [profile?_setProfile] at hq
      split at hq
      · obtain rfl : p = q := Option.some.inj hq
        exact ⟨hv, hp⟩
      · exact h.profiles i q hq }

theorem freeProfile (h : s.ControllerSound) (slot : Nat) : (s.freeProfile slot).ControllerSound :=
  { h with
    dpRising := rising_eraseKey _ h.dpRising
    dpBelow := keysBelow_eraseKey _ h.dpBelow
    profiles := fun i q hq => by
      rw [profile?_freeProfile] at hq
      split at hq
      · cases hq
      · exact h.profiles i q hq }

/-- DISPATCH: reconciliation keeps the deassertion pattern, so every profile stays well made (R96). -/
theorem dispatched (h : s.ControllerSound) {p : Profile} {rxReq : Bool} {length txBase rxBase rxCapacity : Word}
    (hv : s.ctl.bh.valid = true) (hl : rxReq = true → length.toNat ≤ rxCapacity.toNat) :
    (dispatched s p rxReq length txBase rxBase rxCapacity).ControllerSound :=
  { h with
    busInFlight := fun _ => hv
    linesReleased := fun _ hd => nomatch hd
    roomInFlight := fun _ => hl }

/-- P_STATUS: XFER says OK or BusFault by the status, and the chip-selects are released (R109, R163). -/
theorem endWait (h : s.ControllerSound) (status : Word) : (s.endWait status).ControllerSound :=
  { h with
    bufRising := rising_receiveBytes _ h.bufRising
    bufBelow := keysBelow_receiveBytes _ h.bufBelow
    busInFlight := fun hd => nomatch hd
    linesReleased := fun _ _ => rfl
    roomInFlight := fun hd => nomatch hd
    result := by
      by_cases hs : status = 0
      · exact .inl ⟨if_pos hs, hs⟩
      · exact .inr ⟨if_neg hs, hs, if_neg hs⟩ }

end State.ControllerSound

/-- The profile BIND constructs is well made (R91 to R93). -/
theorem profileInvariant_newProfile {s : State} {pin : Nat} (hpin : pin < s.params.csWidth) (pol pha : Bool)
    (src : ClockSource) (divider : Word) : ProfileInvariant s (s.newProfile pin pol pha src divider) :=
  ⟨⟨pol, pha, rfl, rfl⟩, ⟨pin, hpin, rfl⟩, ⟨s.now.coreDivRaw, s.now.refDivRaw, rfl⟩⟩

/-- SETDIV keeps a profile well made: its delays are those of the new clock source and divider (R94). -/
theorem profileInvariant_retimed {s : State} {p : Profile} (h : ProfileInvariant s p) (src : ClockSource)
    (divider : Word) : ProfileInvariant s (p.retimed src divider (s.sampledDelays src divider)) := by
  obtain ⟨hpattern, hmask, -⟩ := h
  exact ⟨hpattern, hmask, s.now.coreDivRaw, s.now.refDivRaw, rfl⟩

/-- Every effect keeps the controller's part; only the six listed touch it. -/
theorem Effect.keeps_controllerSound {s t : State} {i : Instr} (he : Effect s i t) (h : s.ControllerSound) :
    t.ControllerSound := by
  cases he with
  | busInit hd hv => exact (h.busInit hv rfl).congr rfl rfl rfl
  | bind hd hv hs hb hp =>
    exact (h.setProfile hv hs (profileInvariant_newProfile hp _ _ _ _)).congr rfl rfl rfl
  | setDiv p hd hv hs hp =>
    exact (h.setProfile hv hs (profileInvariant_retimed (h.profiles _ p hp).2 _ _)).congr rfl rfl rfl
  | unbind p hd hv hs hp => exact (h.freeProfile _).congr rfl rfl rfl
  | dispatch p hd hv hs hp hl => exact h.dispatched hv hl
  | status hd => exact (h.endWait _).congr rfl rfl rfl
  | _ => exact h.congr rfl rfl rfl

/-! ## The engine's invariant (R135, R136) -/

namespace EngineInvariant

variable {s : State}

/-- An open session belongs to a configured engine. -/
theorem configured_of_st (h : EngineInvariant s) (hs : s.per.st ≠ .idle) : s.per.pcfg.valid = true := by
  obtain ⟨-, -, -, hun⟩ := h
  by_contra hv
  exact hs (hun (by simpa using hv)).1

theorem configured_of_session (h : EngineInvariant s) (hs : s.per.session = true) : s.per.pcfg.valid = true :=
  h.configured_of_st (h.1.mp hs)

/-- A configured table fits TABLE_MAX (R23). -/
theorem tableLength_le (h : EngineInvariant s) (hv : s.per.pcfg.valid = true) :
    s.per.pcfg.tableLength.toNat ≤ s.params.tableMax := by
  obtain ⟨-, -, hcfg, -⟩ := h
  obtain ⟨-, -, -, hlen⟩ := hcfg hv
  exact hlen

/-- A session opened by the assertion level of a configured engine, whatever the counters are. -/
theorem opened (h : EngineInvariant s) (hv : s.per.pcfg.valid = true) {level : Bool}
    (hl : level = s.per.pcfg.assertLevel) : EngineInvariant (s.setPer (s.per.opened level)) := by
  simp [EngineInvariant, Peripheral.opened, hv, hl, h.tableLength_le hv]

/-- Back in Idle, armed for the next assertion. -/
theorem closed (h : EngineInvariant s) (hv : s.per.pcfg.valid = true) :
    EngineInvariant (s.setPer s.per.closed) := by
  simp [EngineInvariant, Peripheral.closed, hv, h.tableLength_le hv]

/-- PINIT in Idle, where no session is open. -/
theorem configured (h : EngineInvariant s) (hs : s.per.st = .idle) {tableLength : Word}
    (hl : tableLength.toNat ≤ s.params.tableMax) (level : Bool) (nulls offset : Word) :
    EngineInvariant (s.setPer (s.per.configured level tableLength nulls offset)) := by
  have hsession : s.per.session = false := by simpa [hs] using h.1
  simp [EngineInvariant, Peripheral.configured, hs, hl, hsession]

/-- A classification goes from one open state to another. -/
theorem classified (h : EngineInvariant s) (hs : s.per.st = .waitingForAddress) (k : Kind) :
    EngineInvariant (s.setPer { s.per with st := k.state }) := by
  have hk : k.state ≠ .idle := by cases k <;> decide
  have hst : s.per.st ≠ .idle := by simp [hs]
  have hv := h.configured_of_st hst
  obtain ⟨hsession, hdata, hcfg, -⟩ := h
  obtain ⟨hen, -, hlevel, hlen⟩ := hcfg hv
  simp [EngineInvariant, hk, hsession.mpr hst, hdata, hv, hen, hlevel hst, hlen]

end EngineInvariant

/-! ## The peripheral role's part -/

namespace State.PeripheralSound

variable {s t : State}

/-- The peripheral's part speaks of the parameters, the peripheral role and PRIM_ERR alone. -/
theorem congr (h : s.PeripheralSound) (hp : t.params = s.params) (hper : t.per = s.per)
    (hf : t.flags.primErr = s.flags.primErr) : t.PeripheralSound := by
  obtain ⟨params, ctl, per, ⟨f1, f2, f3, primErr⟩, act, now, later, buf, draws, out⟩ := t
  obtain rfl : params = s.params := hp
  obtain rfl : per = s.per := hper
  obtain rfl : primErr = s.flags.primErr := hf
  exact { h with }

/-- A change of the session or of the configuration that keeps the engine's invariant, the banks and PRIM_CODE. -/
theorem setPer (h : s.PeripheralSound) {p : Peripheral} (he : EngineInvariant (s.setPer p))
    (hcur : p.cur = s.per.cur) (hshd : p.shd = s.per.shd) (hcode : p.primCode = s.per.primCode) :
    (s.setPer p).PeripheralSound := by
  obtain ⟨pcfg, st, csSeen, arm, session, malformed, code, cur, shd⟩ := p
  obtain rfl : cur = s.per.cur := hcur
  obtain rfl : shd = s.per.shd := hshd
  obtain rfl : code = s.per.primCode := hcode
  exact { h with engine := he }

theorem countMalformed (h : s.PeripheralSound) : s.countMalformed.PeripheralSound :=
  h.setPer h.engine rfl rfl rfl

/-- A write to a cell inside the configured table (R150, R153). -/
theorem tblWrite (h : s.PeripheralSound) {a : Word} (b : Byte) (hv : s.per.pcfg.valid = true)
    (ha : a.toNat < s.per.pcfg.tableLength.toNat) : (s.tblWrite a b).PeripheralSound :=
  { h with
    shdRising := rising_setKey _ _ h.shdRising
    shdBelow := keysBelow_setKey _ (ha.trans_le (h.engine.tableLength_le hv)) h.shdBelow
    curFromShd := fun k hk => by
      by_cases hka : k = a.toNat
      · simp [State.tblWrite, Memory.read, hka]
      · simpa [State.tblWrite, Memory.read, hka] using h.curFromShd k hk }

/-- PUBLISH copies from SHD, so CUR still holds values only where SHD does (R152). -/
theorem publishRange (h : s.PeripheralSound) (a n : Word) : (s.publishRange a n).PeripheralSound :=
  { h with
    curRising := rising_copyRange _ _ h.shdRising h.curRising
    curBelow := keysBelow_copyRange _ _ h.shdBelow h.curBelow
    curFromShd := fun k hk => by
      simp only [State.publishRange, State.setPer_per, Memory.read, lookupKey_copyRange] at hk ⊢
      split at hk
      · exact hk
      · exact h.curFromShd k hk }

/-- A nonzero completion code sets PRIM_ERR and PRIM_CODE together (R31, R130). -/
theorem latched (h : s.PeripheralSound) {code : Word} (hc : code ≠ 0) :
    ((s.setPer { s.per with primCode := code }).flagPrimErr).PeripheralSound :=
  { h with primErr := iff_of_true rfl hc }

end State.PeripheralSound

/-- Every effect keeps the peripheral's part; only the ten listed touch it. -/
theorem Effect.keeps_peripheralSound {s t : State} {i : Instr} (he : Effect s i t) (h : s.PeripheralSound) :
    t.PeripheralSound := by
  have eng := h.engine
  cases he with
  | pInit hs hl => exact (h.setPer (eng.configured hs hl _ _ _) rfl rfl rfl).congr rfl rfl rfl
  | tWrite hv ha => exact (h.tblWrite _ hv ha).congr rfl rfl rfl
  | publish hv ha => exact (h.publishRange _ _).congr rfl rfl rfl
  | csStart hv hl hs => exact (h.setPer (eng.opened hv hl) rfl rfl rfl).congr rfl rfl rfl
  | csMalformed hv hl hs =>
    have hcount := h.countMalformed
    exact (hcount.setPer (hcount.engine.opened hv hl) rfl rfl rfl).congr rfl rfl rfl
  | @csEnd level hv hl hs =>
    exact (h.setPer (p := { s.per.closed with csSeen := level }) (eng.closed hv) rfl rfl rfl).congr rfl rfl rfl
  | classified k hi hs => exact (h.setPer (eng.classified hs k) rfl rfl rfl).congr rfl rfl rfl
  | doneOk hs hc => exact (h.setPer (eng.closed (eng.configured_of_session hs)) rfl rfl rfl).congr rfl rfl rfl
  | doneError hs hc =>
    exact ((h.setPer (eng.closed (eng.configured_of_session hs)) rfl rfl rfl).latched hc).congr rfl rfl rfl
  | regWr hs ha =>
    have hst : s.per.st ≠ .idle := by rcases hs with hs | hs <;> simp [hs]
    exact (h.tblWrite _ (eng.configured_of_st hst) ha).congr rfl rfl rfl
  | _ => exact h.congr rfl rfl rfl

/-! ## Steps -/

/-- A step with RST released is a wait or handles one input in the state the arbiter leaves: by an effect of its
instruction, or as an undecodable word. -/
theorem step_released_cases {s t : State} (h : step s = .next t) (hrst : s.now.rst = false) :
    t = s.await ∨ ∃ k rest, (∃ i, Effect ((s.drawnBy k).withPresented rest) i t) ∨
      ∃ inp, t = ((s.drawnBy k).withPresented rest).undecoded inp := by
  obtain ⟨hreset, -⟩ | ⟨-, -, hstep⟩ | ⟨inp, r, -, ha, hstep⟩ := step_cases s
  · simp [hrst] at hreset
  · cases hstep.symm.trans h
    exact .inl rfl
  · obtain ⟨rest, k, -, rfl⟩ := arbitrate_some ha
    refine .inr ⟨k, rest, ?_⟩
    obtain ⟨i, -, hstep⟩ | ⟨-, hstep⟩ := hstep
    · exact .inl ⟨i, exec_effect (hstep.symm.trans h)⟩
    · cases hstep.symm.trans h
      exact .inr ⟨inp, rfl⟩

/-- With RST asserted a step is a reset (R190). -/
theorem step_reset {s : State} (hrst : s.now.rst = true) : step s = .next s.takeReset := by
  simp [step, hrst]

/-- With RST released and nothing presented a step is a wait (R185). -/
theorem step_await {s : State} (hrst : s.now.rst = false) (hp : s.now.presented = []) :
    step s = .next s.await := by
  simp [step, hrst, arbitrate_none.mpr hp]

/-- A wait touches no state of the block: at most the ports and the buffer space move on (R185). -/
theorem await_eq (s : State) :
    ∃ now later stored, s.await = { s.quiet with
      now := now, later := later, buf := { s.buf with cells := storeBytes stored s.buf.cells } } := by
  unfold State.await
  split
  · exact ⟨s.now, s.later, [], rfl⟩
  · exact ⟨_, _, _, rfl⟩

theorem inv_await {s : State} (h : s.Inv) : s.await.Inv := by
  obtain ⟨hctl, hper⟩ := inv_iff.mp h
  obtain ⟨now, later, stored, hawait⟩ := await_eq s
  rw [hawait, inv_iff]
  exact ⟨{ hctl with
      bufRising := rising_storeBytes _ hctl.bufRising
      bufBelow := keysBelow_storeBytes _ hctl.bufBelow },
    hper.congr rfl rfl rfl⟩

theorem Effect.keeps_inv {s t : State} {i : Instr} (he : Effect s i t) (h : s.Inv) : t.Inv := by
  obtain ⟨hctl, hper⟩ := inv_iff.mp h
  exact inv_iff.mpr ⟨he.keeps_controllerSound hctl, he.keeps_peripheralSound hper⟩

/-- An undecodable input moves the response port or EVT_ILLEGAL, of which the invariant does not speak. -/
theorem inv_undecoded {s : State} (h : s.Inv) (inp : Input) : (s.undecoded inp).Inv := by
  obtain ⟨hctl, hper⟩ := inv_iff.mp h
  cases inp <;> exact inv_iff.mpr ⟨hctl.congr rfl rfl rfl, hper.congr rfl rfl rfl⟩

/-- The arbiter moves the ports and the counter of draws, of which the invariant does not speak. -/
theorem inv_withPresented_drawnBy {s : State} (h : s.Inv) (k : Nat) (rest : List Input) :
    ((s.drawnBy k).withPresented rest).Inv := by
  obtain ⟨hctl, hper⟩ := inv_iff.mp h
  exact inv_iff.mpr ⟨hctl.congr rfl rfl rfl, hper.congr rfl rfl rfl⟩

/-- A reset meets the invariant whatever is drawn, given a buffer space in canonical form. -/
theorem inv_resetAt (p : Params) (now : Moment) (later : List Arrival) {buf : BufferSpace} (k : Nat)
    (hrising : rising buf.cells = true) (hbelow : keysBelow (2 ^ 32) buf.cells = true) :
    (State.resetAt p now later buf k).Inv := by
  have hctl : (State.resetAt p now later buf k).ControllerSound :=
    { dpRising := rfl
      dpBelow := rfl
      bufRising := hrising
      bufBelow := hbelow
      profiles := fun i p hp => nomatch hp
      busInFlight := fun hd => nomatch hd
      linesReleased := fun hv => nomatch hv
      roomInFlight := fun hd => nomatch hd
      result := .inl ⟨rfl, rfl⟩ }
  have hper : (State.resetAt p now later buf k).PeripheralSound :=
    { curRising := rfl
      shdRising := rfl
      curBelow := rfl
      shdBelow := rfl
      curFromShd := fun a ha => nomatch ha
      engine := by simp [EngineInvariant, State.resetAt]
      primErr := by simp [State.resetAt] }
  exact inv_iff.mpr ⟨hctl, hper⟩

/-- Settles O52: nothing is known of the buffer space, so its form is canonical. -/
theorem resetMeetsTheInvariant : Obligations.ResetMeetsTheInvariant :=
  inv_resetAt _ _ _ 0 rfl rfl

/-- Settles O53: a reset starts the invariant afresh, and a wait, an effect and an undecodable input keep it. -/
theorem stepKeepsTheInvariant : Obligations.StepKeepsTheInvariant := by
  intro s t hinv hstep
  cases hrst : s.now.rst with
  | true =>
    cases (step_reset hrst).symm.trans hstep
    obtain ⟨hctl, -⟩ := inv_iff.mp hinv
    exact inv_resetAt _ _ _ _ hctl.bufRising hctl.bufBelow
  | false =>
    obtain rfl | ⟨k, rest, ⟨i, he⟩ | ⟨inp, rfl⟩⟩ := step_released_cases hstep hrst
    · exact inv_await hinv
    · exact he.keeps_inv (inv_withPresented_drawnBy hinv k rest)
    · exact inv_undecoded (inv_withPresented_drawnBy hinv k rest) inp

end Sys2Proof.Machine
end

section
/-! PROOFS of the family 10_state.md, the writers: which effects write FLAGS, ACT, the Bus Handle and every other
register (O48, O49, O50, O54, O56).  Each lemma is a case analysis over `Effect` that names the writers; every
other effect leaves the register as it was.
-/

namespace Sys2Proof.Machine

/-! ## FLAGS (R30) -/

/-- No bit of FLAGS falls. -/
def FlagsRise (f g : Flags) : Prop :=
  (f.evtIllegal = true → g.evtIllegal = true) ∧ (f.evtUnexpected = true → g.evtUnexpected = true) ∧
    (f.tblRange = true → g.tblRange = true) ∧ (f.primErr = true → g.primErr = true)

theorem FlagsRise.refl (f : Flags) : FlagsRise f f := ⟨id, id, id, id⟩

theorem Effect.flagsRise {s t : State} {i : Instr} (he : Effect s i t) : FlagsRise s.flags t.flags := by
  cases he with
  | decodeDropped | doneDropped | regWrUnexpected | regRdUnexpected | statusDropped =>
    exact ⟨id, fun _ => rfl, id, id⟩
  | regWrRange | regRdRange => exact ⟨id, id, fun _ => rfl, id⟩
  | doneError => exact ⟨id, id, id, fun _ => rfl⟩
  | _ => exact FlagsRise.refl _

theorem flagsRise_undecoded (s : State) (inp : Input) : FlagsRise s.flags (s.undecoded inp).flags := by
  cases inp with
  | command c => exact FlagsRise.refl _
  | event e => exact ⟨fun _ => rfl, id, id, id⟩

/-- Settles O48: an effect and an undecodable input only set bits, and a wait leaves all of them alone. -/
theorem flagsAreSticky : Obligations.FlagsAreSticky := by
  intro s t hstep hrst
  obtain rfl | ⟨k, rest, ⟨i, he⟩ | ⟨inp, rfl⟩⟩ := step_released_cases hstep hrst
  · obtain ⟨now, later, stored, hawait⟩ := await_eq s
    rw [hawait]
    exact FlagsRise.refl _
  · exact he.flagsRise
  · exact flagsRise_undecoded ((s.drawnBy k).withPresented rest) inp

/-- Settles O49: every effect that sets an error flag but PRIM_ERR is of an input that was not owed. -/
theorem expectedInputsSetNoErrorFlag : Obligations.ExpectedInputsSetNoErrorFlag := by
  intro i s t hexp h
  cases exec_effect h with
  | decodeDropped hi hs =>
    obtain rfl | rfl | rfl := hi
    all_goals exact absurd hexp hs
  | doneDropped hs => exact absurd hexp (by simp [Expected, hs])
  | doneError hs hc => exact .inr ⟨_, rfl, hc, rfl⟩
  | regWrUnexpected hs => exact absurd hexp.1 hs
  | regWrRange ha => exact absurd hexp.2 (Nat.not_lt.mpr ha)
  | regRdUnexpected hs => exact absurd hexp.1 hs
  | regRdRange ha => exact absurd hexp.2 (Nat.not_lt.mpr ha)
  | statusDropped hd => exact absurd hexp (by simp [Expected, hd])
  | _ => exact .inl rfl

/-! ## The action stream (R22) -/

theorem Effect.act_grows {s t : State} {i : Instr} (he : Effect s i t) : ∃ new, t.act = s.act ++ new := by
  cases he with
  | dispatch p => exact ⟨_, List.append_assoc _ _ _⟩
  | csStart => exact ⟨_, rfl⟩
  | csMalformed => exact ⟨_, congrArg State.act (malformed_eq s _)⟩
  | csEnd => exact ⟨_, rfl⟩
  | _ => exact ⟨[], (List.append_nil _).symm⟩

/-- Settles O50: only DISPATCH and E_CS emit, and they append. -/
theorem actionStreamOnlyGrows : Obligations.ActionStreamOnlyGrows := by
  intro s t hstep hrst
  obtain rfl | ⟨k, rest, ⟨i, he⟩ | ⟨inp, rfl⟩⟩ := step_released_cases hstep hrst
  · obtain ⟨now, later, stored, hawait⟩ := await_eq s
    exact ⟨[], by simp [hawait]⟩
  · exact he.act_grows
  · cases inp <;> exact ⟨[], (List.append_nil _).symm⟩

/-! ## The Bus Handle (R14, R96) -/

/-- Settles O54: BUSINIT writes where there is no Bus Handle, DISPATCH where there is one, keeping its
deassertion pattern, and no other effect writes it. -/
theorem busHandleHasTwoWriters : Obligations.BusHandleHasTwoWriters := by
  intro i s t h
  cases exec_effect h with
  | busInit hd hv => exact ⟨fun hvalid => absurd hvalid (by simp [hv]), fun _ _ => ⟨_, _, _, _, rfl⟩⟩
  | dispatch p hd hv =>
    exact ⟨fun _ => ⟨hv, rfl, fun _ => ⟨_, _, _, _, _, _, rfl⟩⟩, fun hnone => absurd hv (by simp [hnone])⟩
  | _ => exact ⟨fun hv => ⟨hv, rfl, fun hne => absurd rfl hne⟩, fun _ hne => absurd rfl hne⟩

/-! ## The writers of each register (R14 to R31, R44) -/

/-- The instruction is BUSINIT. -/
def IsBusInit (i : Instr) : Prop := ∃ src d w v, i = .busInit src d w v

/-- The instruction is DISPATCH. -/
def IsDispatch (i : Instr) : Prop := ∃ slot rx len tx rxb cap, i = .dispatch slot rx len tx rxb cap

/-- The instruction is P_STATUS. -/
def IsStatus (i : Instr) : Prop := ∃ status, i = .pStatus status

/-- The instruction is PINIT. -/
def IsPInit (i : Instr) : Prop := ∃ l n c o, i = .pInit l n c o

/-- The instruction is E_CS. -/
def IsEdge (i : Instr) : Prop := ∃ level, i = .eCs level

/-- The instruction is an E_DECODE. -/
def IsDecode (i : Instr) : Prop := i = .eDecodeW ∨ i = .eDecodeR ∨ i = .eDecodeRW

/-- The instruction is E_DONE. -/
def IsDone (i : Instr) : Prop := ∃ code, i = .eDone code

/-- The instruction is a bus-side access to the Register Table. -/
def IsAccess (i : Instr) : Prop := (∃ a b, i = .eRegWr a b) ∨ ∃ a, i = .eRegRd a

namespace Effect

section Writers

variable {s t : State} {i : Instr} (he : Effect s i t)

include he

theorem bh_writers : t.ctl.bh ≠ s.ctl.bh → IsBusInit i ∨ IsDispatch i := by
  cases he with
  | busInit => exact fun _ => .inl ⟨_, _, _, _, rfl⟩
  | dispatch => exact fun _ => .inr ⟨_, _, _, _, _, _, rfl⟩
  | _ => exact fun hne => absurd rfl hne

theorem slot_writers (slot : Nat) : t.profile? slot ≠ s.profile? slot →
    (∃ pin pol pha src d, i = .bind slot pin pol pha src d) ∨ (∃ src d, i = .setDiv slot src d) ∨
      i = .unbind slot := by
  cases he with
  | bind =>
    intro hne
    obtain rfl := eq_of_profile?_setProfile_ne (s := s) hne
    exact .inl ⟨_, _, _, _, _, rfl⟩
  | setDiv =>
    intro hne
    obtain rfl := eq_of_profile?_setProfile_ne (s := s) hne
    exact .inr (.inl ⟨_, _, rfl⟩)
  | unbind =>
    intro hne
    obtain rfl := eq_of_profile?_freeProfile_ne (s := s) hne
    exact .inr (.inr rfl)
  | _ => exact fun hne => absurd rfl hne

theorem dseq_lat_writers : t.ctl.dseq ≠ s.ctl.dseq ∨ t.ctl.lat ≠ s.ctl.lat → IsDispatch i ∨ IsStatus i := by
  cases he with
  | dispatch => exact fun _ => .inl ⟨_, _, _, _, _, _, rfl⟩
  | status => exact fun _ => .inr ⟨_, rfl⟩
  | _ => exact fun hne => hne.elim (absurd rfl) (absurd rfl)

theorem xfer_writers : t.ctl.xfer ≠ s.ctl.xfer → IsStatus i := by
  cases he with
  | status => exact fun _ => ⟨_, rfl⟩
  | _ => exact fun hne => absurd rfl hne

theorem csLines_writers : t.ctl.csLines ≠ s.ctl.csLines → IsBusInit i ∨ IsDispatch i ∨ IsStatus i := by
  cases he with
  | busInit => exact fun _ => .inl ⟨_, _, _, _, rfl⟩
  | dispatch => exact fun _ => .inr (.inl ⟨_, _, _, _, _, _, rfl⟩)
  | status => exact fun _ => .inr (.inr ⟨_, rfl⟩)
  | _ => exact fun hne => absurd rfl hne

theorem pcfg_writers : t.per.pcfg ≠ s.per.pcfg → IsPInit i := by
  cases he with
  | pInit => exact fun _ => ⟨_, _, _, _, rfl⟩
  | _ => exact fun hne => absurd rfl hne

theorem st_writers : t.per.st ≠ s.per.st → IsEdge i ∨ IsDecode i ∨ IsDone i := by
  cases he with
  | csStart | csMalformed | csEnd => exact fun _ => .inl ⟨_, rfl⟩
  | classified k hi => exact fun _ => .inr (.inl (hi.imp And.left (Or.imp And.left And.left)))
  | doneOk | doneError => exact fun _ => .inr (.inr ⟨_, rfl⟩)
  | _ => exact fun hne => absurd rfl hne

theorem csSeen_malformedCount_writers :
    t.per.csSeen ≠ s.per.csSeen ∨ t.per.malformedCount ≠ s.per.malformedCount → IsEdge i := by
  cases he with
  | csStart | csMalformed | csEnd => exact fun _ => ⟨_, rfl⟩
  | _ => exact fun hne => hne.elim (absurd rfl) (absurd rfl)

theorem arm_writers : t.per.arm ≠ s.per.arm → IsPInit i ∨ IsEdge i ∨ IsDone i := by
  cases he with
  | pInit => exact fun _ => .inl ⟨_, _, _, _, rfl⟩
  | csStart | csMalformed | csEnd => exact fun _ => .inr (.inl ⟨_, rfl⟩)
  | doneOk | doneError => exact fun _ => .inr (.inr ⟨_, rfl⟩)
  | _ => exact fun hne => absurd rfl hne

theorem session_writers : t.per.session ≠ s.per.session → IsEdge i ∨ IsDone i := by
  cases he with
  | csStart | csMalformed | csEnd => exact fun _ => .inl ⟨_, rfl⟩
  | doneOk | doneError => exact fun _ => .inr ⟨_, rfl⟩
  | _ => exact fun hne => absurd rfl hne

theorem primCode_writers : t.per.primCode ≠ s.per.primCode → IsDone i := by
  cases he with
  | doneError => exact fun _ => ⟨_, rfl⟩
  | _ => exact fun hne => absurd rfl hne

theorem act_writers : t.act ≠ s.act → IsDispatch i ∨ IsEdge i := by
  cases he with
  | dispatch => exact fun _ => .inl ⟨_, _, _, _, _, _, rfl⟩
  | csStart | csMalformed | csEnd => exact fun _ => .inr ⟨_, rfl⟩
  | _ => exact fun hne => absurd rfl hne

theorem evtIllegal_kept : t.flags.evtIllegal = s.flags.evtIllegal := by
  cases he <;> rfl

theorem evtUnexpected_writers : t.flags.evtUnexpected ≠ s.flags.evtUnexpected →
    IsDecode i ∨ IsDone i ∨ IsAccess i ∨ IsStatus i := by
  cases he with
  | decodeDropped hi => exact fun _ => .inl hi
  | doneDropped => exact fun _ => .inr (.inl ⟨_, rfl⟩)
  | regWrUnexpected => exact fun _ => .inr (.inr (.inl (.inl ⟨_, _, rfl⟩)))
  | regRdUnexpected => exact fun _ => .inr (.inr (.inl (.inr ⟨_, rfl⟩)))
  | statusDropped => exact fun _ => .inr (.inr (.inr ⟨_, rfl⟩))
  | _ => exact fun hne => absurd rfl hne

theorem tblRange_writers : t.flags.tblRange ≠ s.flags.tblRange → IsAccess i := by
  cases he with
  | regWrRange => exact fun _ => .inl ⟨_, _, rfl⟩
  | regRdRange => exact fun _ => .inr ⟨_, rfl⟩
  | _ => exact fun hne => absurd rfl hne

theorem primErr_writers : t.flags.primErr ≠ s.flags.primErr → IsDone i := by
  cases he with
  | doneError => exact fun _ => ⟨_, rfl⟩
  | _ => exact fun hne => absurd rfl hne

theorem keepsPorts : KeepsPorts s t := by
  cases he <;> exact ⟨rfl, rfl, rfl⟩

theorem rxBuffer_writers :
    t.buf.rxBase ≠ s.buf.rxBase ∨ t.buf.rxCapacity ≠ s.buf.rxCapacity → IsDispatch i := by
  cases he with
  | dispatch => exact fun _ => ⟨_, _, _, _, _, _, rfl⟩
  | _ => exact fun hne => hne.elim (absurd rfl) (absurd rfl)

theorem bufCell_writers (a : Nat) :
    Memory.read t.buf.cells a ≠ Memory.read s.buf.cells a → IsStatus i := by
  cases he with
  | status => exact fun _ => ⟨_, rfl⟩
  | _ => exact fun hne => absurd rfl hne

end Writers

end Effect

/-- Settles O56, register by register. -/
theorem registersHaveTheirWriters : Obligations.RegistersHaveTheirWriters := by
  intro i s t h
  have he := exec_effect h
  exact ⟨he.bh_writers, he.slot_writers, he.dseq_lat_writers, he.xfer_writers, he.csLines_writers,
    he.pcfg_writers, he.st_writers, he.csSeen_malformedCount_writers, he.arm_writers, he.session_writers,
    he.primCode_writers, he.act_writers, he.evtIllegal_kept, he.evtUnexpected_writers, he.tblRange_writers,
    he.primErr_writers, he.keepsPorts, he.rxBuffer_writers, he.bufCell_writers⟩

end Sys2Proof.Machine
end

section
/-! PROOFS of the family 10_state.md, no rule reads an unspecified element (O58): agreement of two states, role by
role; each shared operation keeps it, so each meaning does, and with them every step.
-/

namespace Sys2Proof.Machine

/-! ## Agreement, role by role -/

/-- Two controller roles agree where the spec gives a value (R34, U9). -/
structure ControllersAgree (c d : Controller) : Prop where
  valid : d.bh.valid = c.bh.valid
  bus : c.bh.valid = true → d.bh = c.bh ∧ d.csLines = c.csLines
  dp : d.dp = c.dp
  dseq : d.dseq = c.dseq
  lat : c.dseq = .wait → d.lat = c.lat
  xfer : d.xfer = c.xfer

/-- Two peripheral roles agree where the spec gives a value (R34); CS_SEEN may differ (R25). -/
structure PeripheralsAgree (p q : Peripheral) : Prop where
  valid : q.pcfg.valid = p.pcfg.valid
  pcfg : p.pcfg.valid = true → q.pcfg = p.pcfg
  st : q.st = p.st
  session : q.session = p.session
  csEn : q.arm.csEn = p.arm.csEn
  dataEn : q.arm.dataEn = p.arm.dataEn
  csLevel : p.arm.csEn = true → q.arm.csLevel = p.arm.csLevel
  malformedCount : q.malformedCount = p.malformedCount
  primCode : q.primCode = p.primCode
  cur : q.cur = p.cur
  shd : q.shd = p.shd

/-- `AgreeWhereSpecified`, its clauses by name and role. -/
structure StatesAgree (s t : State) : Prop where
  params : t.params = s.params
  now : t.now = s.now
  later : t.later = s.later
  draws : t.draws = s.draws
  out : t.out = s.out
  cells : t.buf.cells = s.buf.cells
  rxBuffer : s.ctl.dseq = .wait → t.buf.rxBase = s.buf.rxBase ∧ t.buf.rxCapacity = s.buf.rxCapacity
  flags : t.flags = s.flags
  act : t.act = s.act
  ctl : ControllersAgree s.ctl t.ctl
  per : PeripheralsAgree s.per t.per

theorem agreeWhereSpecified_iff {s t : State} : AgreeWhereSpecified s t ↔ StatesAgree s t := by
  constructor
  · rintro ⟨h1, h2, h3, h4, h5, h6, h7, h8, h9, c1, c2, c3, c4, c5, c6, p1, p2, p3, p4, p5, p6, p7, p8, p9,
      p10, p11⟩
    exact ⟨h1, h2, h3, h4, h5, h6, h7, h8, h9, ⟨c1, c2, c3, c4, c5, c6⟩,
      ⟨p1, p2, p3, p4, p5, p6, p7, p8, p9, p10, p11⟩⟩
  · rintro ⟨h1, h2, h3, h4, h5, h6, h7, h8, h9, ⟨c1, c2, c3, c4, c5, c6⟩,
      ⟨p1, p2, p3, p4, p5, p6, p7, p8, p9, p10, p11⟩⟩
    exact ⟨h1, h2, h3, h4, h5, h6, h7, h8, h9, c1, c2, c3, c4, c5, c6, p1, p2, p3, p4, p5, p6, p7, p8, p9,
      p10, p11⟩

theorem ControllersAgree.refl (c : Controller) : ControllersAgree c c :=
  ⟨rfl, fun _ => ⟨rfl, rfl⟩, rfl, rfl, fun _ => rfl, rfl⟩

theorem PeripheralsAgree.refl (p : Peripheral) : PeripheralsAgree p p :=
  ⟨rfl, fun _ => rfl, rfl, rfl, rfl, rfl, fun _ => rfl, rfl, rfl, rfl, rfl⟩

/-- With a transfer in flight on a Bus Handle, nothing of the controller role is unspecified. -/
theorem ControllersAgree.eq_of_wait {c d : Controller} (h : ControllersAgree c d) (hv : c.bh.valid = true)
    (hd : c.dseq = .wait) : d = c := by
  obtain ⟨bh, dp, dseq, lat, xfer, lines⟩ := d
  obtain ⟨rfl, rfl⟩ := h.bus hv
  obtain rfl := h.lat hd
  obtain rfl := h.dp
  obtain rfl := h.dseq
  obtain rfl := h.xfer
  rfl

theorem bufferSpace_eq {b c : BufferSpace} (hbase : c.rxBase = b.rxBase)
    (hcapacity : c.rxCapacity = b.rxCapacity) (hcells : c.cells = b.cells) : c = b := by
  obtain ⟨base, capacity, cells⟩ := c
  obtain rfl := hbase
  obtain rfl := hcapacity
  obtain rfl := hcells
  rfl

namespace PeripheralsAgree

variable {p q : Peripheral}

theorem opened (h : PeripheralsAgree p q) (level : Bool) : PeripheralsAgree (p.opened level) (q.opened level) :=
  { h with st := rfl, session := rfl, csEn := rfl, dataEn := rfl, csLevel := fun _ => rfl }

/-- Back in Idle the arming is for the assertion level, which a configured engine has (R125). -/
theorem closed (h : PeripheralsAgree p q) (hv : p.pcfg.valid = true) : PeripheralsAgree p.closed q.closed :=
  { h with
    st := rfl
    session := rfl
    csEn := rfl
    dataEn := rfl
    csLevel := fun _ => congrArg EngineConfig.assertLevel (h.pcfg hv) }

theorem configured (h : PeripheralsAgree p q) (level : Bool) (tableLength nulls offset : Word) :
    PeripheralsAgree (p.configured level tableLength nulls offset)
      (q.configured level tableLength nulls offset) :=
  { h with valid := rfl, pcfg := fun _ => rfl, csEn := rfl, dataEn := rfl, csLevel := fun _ => rfl }

theorem withCsSeen (h : PeripheralsAgree p q) (level : Bool) :
    PeripheralsAgree { p with csSeen := level } { q with csSeen := level } := { h with }

theorem withPrimCode (h : PeripheralsAgree p q) (code : Word) :
    PeripheralsAgree { p with primCode := code } { q with primCode := code } := { h with primCode := rfl }

end PeripheralsAgree

/-- A command that passes the check for the Bus Handle has one. -/
theorem bh_valid_of_checks {s : State} {checks : List Check} (hmem : s.checkBus ∈ checks)
    (hnone : firstError checks = none) : s.ctl.bh.valid = true := by
  simpa [State.checkBus] using (firstError_eq_none _).mp hnone _ hmem

namespace StatesAgree

variable {s t : State}

/-! ## The shared operations keep agreement -/

theorem respond (h : StatesAgree s t) (e : ErrorCode) (a b : Word) :
    StatesAgree (s.respond e a b) (t.respond e a b) := { h with out := rfl }

theorem refuse (h : StatesAgree s t) (e : ErrorCode) : StatesAgree (s.refuse e) (t.refuse e) :=
  h.respond e 0 0

theorem quiet (h : StatesAgree s t) : StatesAgree s.quiet t.quiet := { h with out := rfl }

theorem reply (h : StatesAgree s t) (b : Byte) : StatesAgree (s.reply b) (t.reply b) := { h with out := rfl }

theorem emit (h : StatesAgree s t) (a : Action) : StatesAgree (s.emit a) (t.emit a) :=
  { h with act := congrArg (· ++ [a]) h.act }

theorem drawnBy (h : StatesAgree s t) (n : Nat) : StatesAgree (s.drawnBy n) (t.drawnBy n) :=
  { h with draws := congrArg (· + n) h.draws }

theorem drawn (h : StatesAgree s t) : StatesAgree s.drawn t.drawn := h.drawnBy 1

theorem withPresented (h : StatesAgree s t) (l : List Input) :
    StatesAgree (s.withPresented l) (t.withPresented l) :=
  { h with now := congrArg (fun m : Moment => { m with presented := l }) h.now }

theorem flagIllegal (h : StatesAgree s t) : StatesAgree s.flagIllegal t.flagIllegal :=
  { h with flags := congrArg (fun f : Flags => { f with evtIllegal := true }) h.flags }

theorem flagUnexpected (h : StatesAgree s t) : StatesAgree s.flagUnexpected t.flagUnexpected :=
  { h with flags := congrArg (fun f : Flags => { f with evtUnexpected := true }) h.flags }

theorem flagRange (h : StatesAgree s t) : StatesAgree s.flagRange t.flagRange :=
  { h with flags := congrArg (fun f : Flags => { f with tblRange := true }) h.flags }

theorem flagPrimErr (h : StatesAgree s t) : StatesAgree s.flagPrimErr t.flagPrimErr :=
  { h with flags := congrArg (fun f : Flags => { f with primErr := true }) h.flags }

theorem setPer (h : StatesAgree s t) {p q : Peripheral} (hp : PeripheralsAgree p q) :
    StatesAgree (s.setPer p) (t.setPer q) := { h with per := hp }

/-- A controller that waits afterwards needs the rx buffers to agree. -/
theorem setCtl (h : StatesAgree s t) {c d : Controller} (hc : ControllersAgree c d)
    (hrx : c.dseq = .wait → t.buf.rxBase = s.buf.rxBase ∧ t.buf.rxCapacity = s.buf.rxCapacity) :
    StatesAgree (s.setCtl c) (t.setCtl d) := { h with ctl := hc, rxBuffer := hrx }

theorem setBuf (h : StatesAgree s t) {b c : BufferSpace} (hcells : c.cells = b.cells)
    (hrx : s.ctl.dseq = .wait → c.rxBase = b.rxBase ∧ c.rxCapacity = b.rxCapacity) :
    StatesAgree (s.setBuf b) (t.setBuf c) := { h with cells := hcells, rxBuffer := hrx }

/-! ## Checks -/

/-- A checked command: the first error is the same, and where none is found the effects agree. -/
theorem accept (h : StatesAgree s t) {cs ct : List Check} {a b : State} (hc : firstError ct = firstError cs)
    (hdone : firstError cs = none → StatesAgree a b) : StatesAgree (s.accept cs a) (t.accept ct b) := by
  unfold State.accept
  rw [hc]
  cases hfirst : firstError cs with
  | none => exact hdone hfirst
  | some e => exact h.refuse e

theorem checkBusy (h : StatesAgree s t) : t.checkBusy = s.checkBusy := by
  simp [State.checkBusy, h.ctl.dseq]

theorem checkBus (h : StatesAgree s t) : t.checkBus = s.checkBus := by
  simp [State.checkBus, h.ctl.valid]

theorem checkSlot (h : StatesAgree s t) (slot : Nat) : t.checkSlot slot = s.checkSlot slot := by
  simp [State.checkSlot, h.params]

theorem profile? (h : StatesAgree s t) (slot : Nat) : t.profile? slot = s.profile? slot := by
  simp [State.profile?, h.ctl.dp]

theorem checkFree (h : StatesAgree s t) (slot : Nat) : t.checkFree slot = s.checkFree slot := by
  simp [State.checkFree, State.bound, h.profile?]

theorem checkPin (h : StatesAgree s t) (pin : Nat) : t.checkPin pin = s.checkPin pin := by
  simp [State.checkPin, h.params]

theorem checkIdle (h : StatesAgree s t) : t.checkIdle = s.checkIdle := by
  simp [State.checkIdle, h.per.st]

theorem checkTableMax (h : StatesAgree s t) (n : Word) : t.checkTableMax n = s.checkTableMax n := by
  simp [State.checkTableMax, h.params]

/-- The table length is specified once the engine is configured, so whether an address is in range is too. -/
theorem inRange (h : StatesAgree s t) (hv : s.per.pcfg.valid = true) (a : Word) : t.inRange a = s.inRange a := by
  simp [State.inRange, h.per.pcfg hv]

/-- A table command looks at the table only after it has found the engine configured (R167, R174). -/
theorem firstError_configured (h : StatesAgree s t) {c d : Check} (hc : s.per.pcfg.valid = true → d = c) :
    firstError [t.checkConfigured, d] = firstError [s.checkConfigured, c] := by
  cases hv : s.per.pcfg.valid with
  | true => rw [hc hv, State.checkConfigured, State.checkConfigured, h.per.valid]
  | false => simp [State.checkConfigured, h.per.valid, hv, firstError]

theorem firstError_address (h : StatesAgree s t) (a : Word) :
    firstError [t.checkConfigured, t.checkAddress a] = firstError [s.checkConfigured, s.checkAddress a] :=
  h.firstError_configured fun hv => by simp [State.checkAddress, h.inRange hv]

theorem firstError_range (h : StatesAgree s t) (a n : Word) :
    firstError [t.checkConfigured, t.checkRange a n] = firstError [s.checkConfigured, s.checkRange a n] :=
  h.firstError_configured fun hv => by simp [State.checkRange, h.per.pcfg hv]

/-- A command on a bound slot meets the same profile in both states. -/
theorem acceptBound (h : StatesAgree s t) (slot : Nat) {f g : Profile → State}
    (hbody : ∀ p, s.ctl.bh.valid = true → StatesAgree (f p) (g p)) :
    StatesAgree (s.acceptBound slot f) (t.acceptBound slot g) := by
  unfold State.acceptBound
  refine h.accept (by rw [h.checkBusy, h.checkBus, h.checkSlot]) fun hnone => ?_
  rw [h.profile?]
  cases s.profile? slot with
  | none => exact h.refuse _
  | some p => exact hbody p (bh_valid_of_checks (by simp) hnone)

/-! ## The meanings keep agreement -/

theorem newProfile (h : StatesAgree s t) (hv : s.ctl.bh.valid = true) (pin : Nat) (pol pha : Bool)
    (src : ClockSource) (divider : Word) :
    t.newProfile pin pol pha src divider = s.newProfile pin pol pha src divider := by
  simp [State.newProfile, State.sampledDelays, h.now, (h.ctl.bus hv).1]

theorem sampledDelays (h : StatesAgree s t) (src : ClockSource) (divider : Word) :
    t.sampledDelays src divider = s.sampledDelays src divider := by
  simp [State.sampledDelays, h.now]

theorem setProfile (h : StatesAgree s t) (slot : Nat) (p : Profile) :
    StatesAgree (s.setProfile slot p) (t.setProfile slot p) :=
  h.setCtl { h.ctl with dp := congrArg (setKey · slot p) h.ctl.dp } h.rxBuffer

theorem freeProfile (h : StatesAgree s t) (slot : Nat) : StatesAgree (s.freeProfile slot) (t.freeProfile slot) :=
  h.setCtl { h.ctl with dp := congrArg (eraseKey · slot) h.ctl.dp } h.rxBuffer

/-- Reconciliation compares with the Bus Handle, which is specified once it exists (R102). -/
theorem reconcile (h : StatesAgree s t) (hv : s.ctl.bh.valid = true) (p : Profile) :
    StatesAgree (s.reconcile p) (t.reconcile p) := by
  obtain ⟨hbus, hlines⟩ := h.ctl.bus hv
  rw [reconcile_eq, reconcile_eq, hbus, h.act]
  exact { h with act := rfl, ctl := { h.ctl with valid := rfl, bus := fun _ => ⟨rfl, hlines⟩ } }

/-- The select lines are driven with one mask; the Bus Handle exists (R105). -/
theorem driveSelect (h : StatesAgree s t) (hv : s.ctl.bh.valid = true) (mask : Word) :
    StatesAgree (s.driveSelect mask) (t.driveSelect mask) :=
  (h.emit _).setCtl { h.ctl with bus := fun _ => ⟨(h.ctl.bus hv).1, rfl⟩ } h.rxBuffer

theorem invoke (h : StatesAgree s t) (args : PrimitiveArgs) (rxCapacity : Word) :
    StatesAgree (s.invoke args rxCapacity) (t.invoke args rxCapacity) :=
  (h.emit _).setBuf h.cells fun _ => ⟨rfl, rfl⟩

theorem beginWait (h : StatesAgree s t)
    (hrx : t.buf.rxBase = s.buf.rxBase ∧ t.buf.rxCapacity = s.buf.rxCapacity) (length : Word) (rxReq : Bool) :
    StatesAgree (s.beginWait length rxReq) (t.beginWait length rxReq) :=
  h.setCtl { h.ctl with dseq := rfl, lat := fun _ => rfl } fun _ => hrx

theorem buf_eq_of_wait (h : StatesAgree s t) (hd : s.ctl.dseq = .wait) : t.buf = s.buf := by
  obtain ⟨hbase, hcapacity⟩ := h.rxBuffer hd
  exact bufferSpace_eq hbase hcapacity h.cells

/-- The rx buffer and LAT are specified while the transfer is in flight, and the Bus Handle with it (R109). -/
theorem endWait (h : StatesAgree s t) (hv : s.ctl.bh.valid = true) (hd : s.ctl.dseq = .wait) (status : Word) :
    StatesAgree (s.endWait status) (t.endWait status) := by
  have hctl : t.ctl = s.ctl := h.ctl.eq_of_wait hv hd
  rw [State.endWait, State.endWait, hctl, h.buf_eq_of_wait hd, h.draws]
  refine ((h.setCtl (.refl _) ?_).setBuf rfl fun _ => ⟨rfl, rfl⟩).drawnBy _
  exact fun hw => nomatch hw

theorem tblWrite (h : StatesAgree s t) (a : Word) (b : Byte) : StatesAgree (s.tblWrite a b) (t.tblWrite a b) :=
  h.setPer { h.per with shd := congrArg (setKey · a.toNat b) h.per.shd }

theorem publishRange (h : StatesAgree s t) (a n : Word) :
    StatesAgree (s.publishRange a n) (t.publishRange a n) :=
  h.setPer { h.per with cur := congrArg₂ (copyRange · · a.toNat n.toNat) h.per.shd h.per.cur }

theorem tblRead (h : StatesAgree s t) (a : Word) : t.tblRead a = s.tblRead a := by
  simp [State.tblRead, h.per.cur, h.draws]

theorem afterTblRead (h : StatesAgree s t) (a : Word) : StatesAgree (s.afterTblRead a) (t.afterTblRead a) := by
  unfold State.afterTblRead
  rw [h.per.cur]
  split
  · exact h
  · exact h.drawn

theorem emitStart (h : StatesAgree s t) (hv : s.per.pcfg.valid = true) :
    StatesAgree s.emitStart t.emitStart := by
  rw [State.emitStart, State.emitStart, h.per.pcfg hv]
  exact h.emit _

theorem startSession (h : StatesAgree s t) (hv : s.per.pcfg.valid = true) (level : Bool) :
    StatesAgree (s.startSession level) (t.startSession level) :=
  (h.setPer (h.per.opened level)).emitStart hv

theorem countMalformed (h : StatesAgree s t) : StatesAgree s.countMalformed t.countMalformed :=
  h.setPer { h.per with malformedCount := congrArg saturatingIncrement h.per.malformedCount }

theorem malformed (h : StatesAgree s t) (hv : s.per.pcfg.valid = true) (level : Bool) :
    StatesAgree (s.malformed level) (t.malformed level) :=
  ((h.countMalformed.setPer (h.countMalformed.per.opened level)).emit .sAbort).emitStart hv

theorem truncateSession (h : StatesAgree s t) (hv : s.per.pcfg.valid = true) (level : Bool) :
    StatesAgree (s.truncateSession level) (t.truncateSession level) :=
  (h.setPer ((h.per.closed hv).withCsSeen level)).emit .sAbort

theorem selectAsserted (h : StatesAgree s t) (hv : s.per.pcfg.valid = true) (level : Bool) :
    StatesAgree (s.selectAsserted level) (t.selectAsserted level) := by
  unfold State.selectAsserted
  rw [h.per.st]
  cases s.per.st with
  | idle => exact h.startSession hv level
  | _ => exact h.malformed hv level

theorem selectDeasserted (h : StatesAgree s t) (hv : s.per.pcfg.valid = true) (level : Bool) :
    StatesAgree (s.selectDeasserted level) (t.selectDeasserted level) := by
  unfold State.selectDeasserted
  rw [h.per.st]
  cases s.per.st with
  | idle => exact h
  | _ => exact h.truncateSession hv level

theorem classify (h : StatesAgree s t) (k : Kind) : StatesAgree (s.classify k) (t.classify k) := by
  unfold State.classify
  rw [h.per.st]
  cases s.per.st with
  | waitingForAddress => exact h.setPer { h.per with st := rfl }
  | _ => exact h.flagUnexpected

theorem latchCode (h : StatesAgree s t) (code : Word) : StatesAgree (s.latchCode code) (t.latchCode code) := by
  unfold State.latchCode
  split
  · exact h
  · exact (h.setPer (h.per.withPrimCode code)).flagPrimErr

theorem completeSession (h : StatesAgree s t) (hv : s.per.pcfg.valid = true) :
    StatesAgree s.completeSession t.completeSession := h.setPer (h.per.closed hv)

theorem undecoded (h : StatesAgree s t) (inp : Input) : StatesAgree (s.undecoded inp) (t.undecoded inp) := by
  cases inp with
  | command c => exact h.refuse _
  | event e => exact h.flagIllegal.quiet

theorem await (h : StatesAgree s t) : StatesAgree s.await t.await := by
  unfold State.await
  rw [h.later]
  split
  · exact h.quiet
  · next a rest _ =>
    exact { h.quiet with now := rfl, later := rfl, cells := congrArg (storeBytes a.stored) h.cells }

/-- A reset draws the same free values in both states, and they go on with the same surroundings. -/
theorem takeReset (h : StatesAgree s t) : StatesAgree s.takeReset t.takeReset := by
  rw [State.takeReset, State.takeReset, h.params, h.now, h.later, h.draws]
  exact
    { params := rfl
      now := rfl
      later := rfl
      draws := rfl
      out := rfl
      cells := h.cells
      rxBuffer := fun hw => nomatch hw
      flags := rfl
      act := rfl
      ctl := .refl _
      per := .refl _ }

/-- The arbiter sees the presented inputs and the counter of draws alone. -/
theorem arbitrate (h : StatesAgree s t) {inp : Input} {r : State} (ha : s.arbitrate = some (inp, r)) :
    ∃ q, t.arbitrate = some (inp, q) ∧ StatesAgree r q := by
  unfold State.arbitrate at ha ⊢
  rw [h.now, h.draws]
  split at ha
  · cases ha
  · cases ha
    exact ⟨_, rfl, h.withPresented _⟩
  · cases ha
    exact ⟨_, rfl, h.drawn.withPresented _⟩

end StatesAgree

/-- Two meanings answer next states that agree. -/
def MeaningsAgree (a b : Result) : Prop := ∃ s t, a = .next s ∧ b = .next t ∧ StatesAgree s t

theorem StatesAgree.meanings {s t : State} (h : StatesAgree s t) : MeaningsAgree (.next s) (.next t) :=
  ⟨s, t, rfl, rfl, h⟩

namespace StatesAgree

variable {s t : State}

theorem calc_meanings (h : StatesAgree s t) (src : ClockSource) (divider coreRaw refRaw : Word) :
    MeaningsAgree (execCalc src divider coreRaw refRaw s) (execCalc src divider coreRaw refRaw t) :=
  (h.accept (by rw [h.checkBusy]) fun _ => h.respond _ _ _).meanings

theorem busInit_meanings (h : StatesAgree s t) (src : ClockSource) (divider idle deassert : Word) :
    MeaningsAgree (execBusInit src divider idle deassert s) (execBusInit src divider idle deassert t) := by
  refine (h.accept (by rw [h.checkBusy, h.ctl.valid]) fun _ => respond ?_ _ _ _).meanings
  exact h.setCtl { h.ctl with valid := rfl, bus := fun _ => ⟨rfl, rfl⟩ } h.rxBuffer

theorem bind_meanings (h : StatesAgree s t) (slot pin : Nat) (pol pha : Bool) (src : ClockSource)
    (divider : Word) :
    MeaningsAgree (execBind slot pin pol pha src divider s) (execBind slot pin pol pha src divider t) := by
  refine (h.accept (by rw [h.checkBusy, h.checkBus, h.checkSlot, h.checkFree, h.checkPin])
    fun hnone => ?_).meanings
  rw [h.newProfile (bh_valid_of_checks (by simp) hnone)]
  exact (h.setProfile slot _).respond _ _ _

theorem setDiv_meanings (h : StatesAgree s t) (slot : Nat) (src : ClockSource) (divider : Word) :
    MeaningsAgree (execSetDiv slot src divider s) (execSetDiv slot src divider t) := by
  rw [execSetDiv, execSetDiv, h.sampledDelays]
  exact (h.acceptBound slot fun p _ => (h.setProfile slot _).respond _ _ _).meanings

theorem unbind_meanings (h : StatesAgree s t) (slot : Nat) :
    MeaningsAgree (execUnbind slot s) (execUnbind slot t) :=
  (h.acceptBound slot fun _ _ => (h.freeProfile slot).respond _ _ _).meanings

theorem dispatch_meanings (h : StatesAgree s t) (slot : Nat) (rxReq : Bool)
    (length txBase rxBase rxCapacity : Word) :
    MeaningsAgree (execDispatch slot rxReq length txBase rxBase rxCapacity s)
      (execDispatch slot rxReq length txBase rxBase rxCapacity t) := by
  refine (h.acceptBound slot fun p hv => h.accept rfl fun _ => ?_).meanings
  have hvalid : (s.reconcile p).ctl.bh.valid = true := by simpa [reconcile_eq] using hv
  have hselect := ((h.reconcile hv p).emit .flush).driveSelect hvalid p.csMask
  have hbus := (hselect.ctl.bus hvalid).1
  dsimp only
  rw [hbus]
  exact ((hselect.invoke _ rxCapacity).beginWait ⟨rfl, rfl⟩ length rxReq).respond _ _ _

theorem pInit_meanings (h : StatesAgree s t) (level : Bool) (tableLength nulls offset : Word) :
    MeaningsAgree (execPInit level tableLength nulls offset s) (execPInit level tableLength nulls offset t) :=
  (h.accept (by rw [h.checkIdle, h.checkTableMax])
    fun _ => (h.setPer (h.per.configured level tableLength nulls offset)).respond _ _ _).meanings

theorem publish_meanings (h : StatesAgree s t) (a n : Word) : MeaningsAgree (execPublish a n s) (execPublish a n t) :=
  (h.accept (h.firstError_range a n) fun _ => (h.publishRange a n).respond _ _ _).meanings

theorem tWrite_meanings (h : StatesAgree s t) (a : Word) (b : Byte) :
    MeaningsAgree (execTWrite a b s) (execTWrite a b t) :=
  (h.accept (h.firstError_address a) fun _ => (h.tblWrite a b).respond _ _ _).meanings

theorem tRead_meanings (h : StatesAgree s t) (a : Word) : MeaningsAgree (execTRead a s) (execTRead a t) := by
  rw [execTRead, execTRead, h.tblRead]
  exact (h.accept (h.firstError_address a) fun _ => (h.afterTblRead a).respond _ _ _).meanings

theorem eCs_meanings (h : StatesAgree s t) (level : Bool) : MeaningsAgree (execECs level s) (execECs level t) := by
  unfold execECs
  cases hv : s.per.pcfg.valid with
  | false =>
    rw [h.per.valid, hv]
    exact h.quiet.meanings
  | true =>
    rw [h.per.pcfg hv, hv]
    refine meanings ?_
    simp only [Bool.not_true, Bool.false_eq_true, if_false]
    split
    · exact (h.selectAsserted hv level).quiet
    · exact (h.selectDeasserted hv level).quiet

/-- An open session belongs to a configured engine, whose assertion level is specified (R130, R135). -/
theorem eDone_meanings (h : StatesAgree s t) (heng : EngineInvariant s) (code : Word) :
    MeaningsAgree (execEDone code s) (execEDone code t) := by
  unfold execEDone
  rw [h.per.session]
  refine meanings ?_
  split
  next hs =>
    have hv : (s.latchCode code).per.pcfg.valid = true := by
      have := heng.configured_of_session hs
      unfold State.latchCode
      split <;> exact this
    exact ((h.latchCode code).completeSession hv).quiet
  next => exact h.flagUnexpected.quiet

/-- In a data state the engine is configured, so the table has a length (R153). -/
theorem eRegWr_meanings (h : StatesAgree s t) (heng : EngineInvariant s) (a : Word) (b : Byte) :
    MeaningsAgree (execERegWr a b s) (execERegWr a b t) := by
  unfold execERegWr
  rw [h.per.st]
  refine meanings ?_
  by_cases hphase : s.per.st.admitsWrite = true
  · have hv := heng.configured_of_st (fun hs => by simp [hs, TxState.admitsWrite] at hphase)
    rw [hphase, h.inRange hv]
    simp only [Bool.not_true, Bool.false_eq_true, if_false]
    split
    · exact h.flagRange.quiet
    · exact (h.tblWrite a b).quiet
  · simp only [hphase]
    exact h.flagUnexpected.quiet

theorem eRegRd_meanings (h : StatesAgree s t) (heng : EngineInvariant s) (a : Word) :
    MeaningsAgree (execERegRd a s) (execERegRd a t) := by
  unfold execERegRd
  rw [h.per.st, h.draws, h.tblRead]
  refine meanings ?_
  by_cases hphase : s.per.st.admitsRead = true
  · have hv := heng.configured_of_st (fun hs => by simp [hs, TxState.admitsRead] at hphase)
    rw [hphase, h.inRange hv]
    simp only [Bool.not_true, Bool.false_eq_true, if_false]
    split
    · exact h.flagRange.drawn.reply _
    · exact (h.afterTblRead a).reply _
  · simp only [hphase]
    exact h.flagUnexpected.drawn.reply _

theorem pStatus_meanings (h : StatesAgree s t) (hbus : s.ctl.dseq = .wait → s.ctl.bh.valid = true) (status : Word) :
    MeaningsAgree (execPStatus status s) (execPStatus status t) := by
  unfold execPStatus
  rw [h.ctl.dseq]
  refine meanings ?_
  cases hd : s.ctl.dseq with
  | idle => exact h.flagUnexpected.quiet
  | wait => exact (h.endWait (hbus hd) hd status).quiet

theorem exec_meanings (h : StatesAgree s t) (hinv : s.Inv) (i : Instr) : MeaningsAgree (exec i s) (exec i t) := by
  obtain ⟨hctl, hper⟩ := inv_iff.mp hinv
  cases i with
  | calcDelays src divider coreRaw refRaw => exact h.calc_meanings src divider coreRaw refRaw
  | busInit src divider idle deassert => exact h.busInit_meanings src divider idle deassert
  | bind slot pin pol pha src divider => exact h.bind_meanings slot pin pol pha src divider
  | setDiv slot src divider => exact h.setDiv_meanings slot src divider
  | unbind slot => exact h.unbind_meanings slot
  | dispatch slot rxReq length txBase rxBase rxCapacity =>
    exact h.dispatch_meanings slot rxReq length txBase rxBase rxCapacity
  | pInit level tableLength nulls offset => exact h.pInit_meanings level tableLength nulls offset
  | publish a n => exact h.publish_meanings a n
  | tWrite a b => exact h.tWrite_meanings a b
  | tRead a => exact h.tRead_meanings a
  | eCs level => exact h.eCs_meanings level
  | eData => exact h.quiet.meanings
  | eDecodeW => exact (h.classify .write).quiet.meanings
  | eDecodeR => exact (h.classify .read).quiet.meanings
  | eDecodeRW => exact (h.classify .readWrite).quiet.meanings
  | eDone code => exact h.eDone_meanings hper.engine code
  | eRegWr a b => exact h.eRegWr_meanings hper.engine a b
  | eRegRd a => exact h.eRegRd_meanings hper.engine a
  | pStatus status => exact h.pStatus_meanings hctl.busInFlight status

theorem handle_meanings (h : StatesAgree s t) (hinv : s.Inv) (inp : Input) :
    MeaningsAgree (s.handle inp) (t.handle inp) := by
  unfold State.handle
  cases decodeInput inp with
  | none => exact (h.undecoded inp).meanings
  | some i => exact h.exec_meanings hinv i

theorem step_meanings (h : StatesAgree s t) (hinv : s.Inv) : MeaningsAgree (step s) (step t) := by
  cases hrst : s.now.rst with
  | true =>
    rw [step_reset hrst, step_reset (h.now ▸ hrst)]
    exact h.takeReset.meanings
  | false =>
    cases ha : s.arbitrate with
    | none =>
      have hnone := arbitrate_none.mp ha
      rw [step_await hrst hnone, step_await (h.now ▸ hrst) (h.now ▸ hnone)]
      exact h.await.meanings
    | some handed =>
      obtain ⟨inp, r⟩ := handed
      obtain ⟨q, hq, hagree⟩ := h.arbitrate ha
      rw [step_eq_handle hrst ha, step_eq_handle (h.now ▸ hrst) hq]
      obtain ⟨rest, k, -, rfl⟩ := arbitrate_some ha
      exact hagree.handle_meanings (inv_withPresented_drawnBy hinv k rest) inp

end StatesAgree

/-- Settles O58: the two steps answer states that agree, by the cases of a step. -/
theorem unspecifiedElementsAreNeverRead : Obligations.UnspecifiedElementsAreNeverRead := by
  intro s₁ s₂ t₁ t₂ hinv _ hagree h₁ h₂
  obtain ⟨u₁, u₂, hu₁, hu₂, hu⟩ := (agreeWhereSpecified_iff.mp hagree).step_meanings hinv
  cases h₁.symm.trans hu₁
  cases h₂.symm.trans hu₂
  exact agreeWhereSpecified_iff.mpr hu

end Sys2Proof.Machine
end

section
/-! PROOFS of the family 10_state.md, fixed tables: the reset values of R34 (O14), and what the status port and
the action records carry (O51).
-/

namespace Sys2Proof.Machine

/-! ## The status port (R30, R33) -/

/-- BUSY is DSEQ = D_WAIT (R20). -/
theorem busy_iff (s : State) : s.busy = true ↔ s.ctl.dseq = .wait := beq_iff_eq

theorem getLsbD_ite_twoPow (b : Bool) {j : Nat} (hj : j < 32) (k : Nat) :
    (if b then BitVec.twoPow 32 j else 0).getLsbD k = (b && decide (j = k)) := by
  cases b <;> simp [BitVec.getLsbD_twoPow, hj]

/-- FLAGS as a word: its four bits, and zeros above (R30). -/
theorem getLsbD_flagsWord (f : Flags) (k : Nat) :
    f.word.getLsbD k = (f.evtIllegal && decide (0 = k) || f.evtUnexpected && decide (1 = k) ||
      f.tblRange && decide (2 = k) || f.primErr && decide (3 = k)) := by
  have hword : f.word = (if f.evtIllegal then BitVec.twoPow 32 0 else 0) |||
      (if f.evtUnexpected then BitVec.twoPow 32 1 else 0) |||
      (if f.tblRange then BitVec.twoPow 32 2 else 0) ||| (if f.primErr then BitVec.twoPow 32 3 else 0) := rfl
  rw [hword, BitVec.getLsbD_or, BitVec.getLsbD_or, BitVec.getLsbD_or, getLsbD_ite_twoPow _ (by decide),
    getLsbD_ite_twoPow _ (by decide), getLsbD_ite_twoPow _ (by decide), getLsbD_ite_twoPow _ (by decide)]

/-- The reserved bits of FLAGS read as zero (R30). -/
theorem getLsbD_flagsWord_reserved (f : Flags) {k : Nat} (hk : 4 ≤ k) : f.word.getLsbD k = false := by
  have h0 : 0 ≠ k := by omega
  have h1 : 1 ≠ k := by omega
  have h2 : 2 ≠ k := by omega
  have h3 : 3 ≠ k := by omega
  simp [getLsbD_flagsWord, h0, h1, h2, h3]

/-- Settles O51, table by table: the status port, the codes of ST (R73), ERR and the error codes (R160), and
the action records (R70, R71). -/
theorem portsCarryTheState : Obligations.PortsCarryTheState := by
  refine ⟨fun s => ?_, ?_, fun _ => rfl, ?_, ?_⟩
  · refine ⟨busy_iff s, rfl, rfl, rfl, rfl, rfl, rfl, rfl, rfl, rfl, rfl, rfl, rfl, rfl, rfl, rfl, rfl,
      ?_, ?_, ?_, ?_, fun k => getLsbD_flagsWord_reserved s.flags⟩
    all_goals
      refine (getLsbD_flagsWord s.flags _).trans ?_
      simp
  · exact ⟨rfl, rfl, rfl, rfl, rfl⟩
  · exact ⟨rfl, rfl, rfl, rfl, rfl, rfl, rfl, rfl, rfl, rfl⟩
  · refine ⟨rfl, rfl, fun _ => rfl, rfl, fun _ => rfl, rfl, rfl, fun _ => rfl, fun a => ⟨?_, ?_⟩,
      fun _ _ _ => rfl, rfl⟩
    all_goals
      intro hrx
      simp only [Action.record, hrx]
      exact ⟨rfl, rfl⟩

/-! ## Reset (R34, R190) -/

theorem flagsWord_resetAt (p : Params) (now : Moment) (later : List Arrival) (buf : BufferSpace) (k : Nat) :
    (State.resetAt p now later buf k).flags.word = 0 := by
  simp [State.resetAt, Flags.word]

/-- Settles O14: the machine after reset and what a step with RST asserted leaves are both `State.resetAt`, whose
fields are those of the reset table. -/
theorem resetLeavesTheStateOfTheResetTable : Obligations.ResetLeavesTheStateOfTheResetTable := by
  refine ⟨?_, fun s hrst => ⟨s.takeReset, step_reset hrst, ?_, rfl, rfl, ⟨rfl, rfl, fun _ => rfl⟩,
    rfl, rfl, rfl, rfl⟩⟩
  all_goals
    exact ⟨rfl, fun _ => rfl, rfl, rfl, rfl, rfl, rfl, rfl, rfl, rfl, rfl, flagsWord_resetAt .., rfl,
      fun _ => rfl, fun _ => rfl⟩

end Sys2Proof.Machine
end

section
/-! PROOFS of the family 20_memory.md: what a cell of CUR holds after a run (O44), by the one effect that writes
CUR, and what BUF holds when a completion arrives (O59), by the rx buffer's three kinds of byte.
-/

namespace Sys2Proof.Machine

/-! ## Cells of CUR (R50, R155) -/

/-- A published range of CUR reads as SHD, the rest of CUR as before (R152). -/
theorem read_cur_publishRange (s : State) (address length : Word) (a : Nat) :
    Memory.read (s.publishRange address length).per.cur a =
      if address.toNat ≤ a ∧ a < address.toNat + length.toNat then Memory.read s.per.shd a
      else Memory.read s.per.cur a :=
  lookupKey_copyRange s.per.shd s.per.cur address.toNat length.toNat a

/-- A PUBLISH that is answered OK has copied its range. -/
theorem eq_publishRange_of_responds_ok {s t : State} {address length : Word}
    (h : exec (.publish address length) s = .next t) (hok : Responds t .ok 0 0) :
    t = (s.publishRange address length).respond .ok 0 0 := by
  cases exec_effect h with
  | refused _ he => cases hok; exact absurd rfl he
  | publish => rfl
  | classified _ hi => simp at hi
  | decodeDropped hi => simp at hi

/-- Only a PUBLISH that covers it writes a cell of CUR (R155 (a)). -/
theorem Effect.curCell_kept {s t : State} {i : Instr} (he : Effect s i t) {a : Nat} (hi : ¬publishes a i) :
    Memory.read t.per.cur a = Memory.read s.per.cur a := by
  cases he with
  | publish =>
    exact (read_cur_publishRange ..).trans (if_neg fun hcovers => hi ⟨_, _, rfl, hcovers⟩)
  | _ => rfl

/-- A run answers a next state by way of the one its first instruction answers. -/
theorem execAll_cons_eq_next {i : Instr} {is : List Instr} {s u : State} (h : execAll (i :: is) s = .next u) :
    ∃ t, exec i s = .next t ∧ execAll is t = .next u := by
  obtain ⟨t, ht⟩ := exec_completes i s
  exact ⟨t, ht, by simpa [execAll, ht] using h⟩

/-- A run without a PUBLISH that covers it keeps a cell of CUR. -/
theorem curCell_kept_of_execAll {a : Nat} {run : List Instr} {s u : State} (hrun : ∀ i ∈ run, ¬publishes a i)
    (h : execAll run s = .next u) : Memory.read u.per.cur a = Memory.read s.per.cur a := by
  induction run generalizing s with
  | nil => cases h; rfl
  | cons i is ih =>
    obtain ⟨hi, his⟩ := List.forall_mem_cons.mp hrun
    obtain ⟨t, ht, hu⟩ := execAll_cons_eq_next h
    exact (ih his hu).trans ((exec_effect ht).curCell_kept hi)

/-- Settles O44: the PUBLISH copies the cell from SHD, and the run after it keeps the copy. -/
theorem lastPublishDecidesEveryRead : Obligations.LastPublishDecidesEveryRead := by
  intro s t u address length a run hpublish hok hlow hhigh hrun hu
  obtain rfl := eq_publishRange_of_responds_ok hpublish hok
  calc Memory.read u.per.cur a
      = Memory.read ((s.publishRange address length).respond .ok 0 0).per.cur a := curCell_kept_of_execAll hrun hu
    _ = Memory.read s.per.shd a := (read_cur_publishRange ..).trans (if_pos ⟨hlow, hhigh⟩)

/-! ## The rx buffer at the completion (R44, U8, D44) -/

theorem bufferAddress_eq_mod (base : Word) (k : Nat) : bufferAddress base k = (base.toNat + k) % 2 ^ 32 := by
  rw [bufferAddress, BitVec.toNat_add, BitVec.toNat_ofNat, Nat.add_mod_mod]

/-- The bytes of the rx buffer, if one was requested: the delivered ones and all up to its capacity. -/
theorem lt_rxSize_iff {b : BufferSpace} {lat : Latch} {k : Nat} :
    k < b.rxSize lat ↔ lat.rxReq = true ∧ (k < lat.length.toNat ∨ k < b.rxCapacity.toNat) := by
  unfold BufferSpace.rxSize
  split <;> simp [*]

/-- An address outside the rx buffer reads as before. -/
theorem read_received_outside {b : BufferSpace} {lat : Latch} (status : Word) (draw : Nat) {a : Nat}
    (h : ∀ k < b.rxSize lat, a ≠ bufferAddress b.rxBase k) :
    Memory.read (b.received lat status draw).cells a = Memory.read b.cells a :=
  lookupKey_receiveBytes_other _ _ h

/-- A byte of the rx buffer that is delivered holds the byte drawn for it; any other holds it or is as before. -/
theorem read_received_inside {b : BufferSpace} {lat : Latch} (status : Word) (draw : Nat) {k : Nat}
    (hk : k < b.rxSize lat) :
    Memory.read (b.received lat status draw).cells (bufferAddress b.rxBase k) =
      if decide (k < deliveredBytes lat status) || Config.freeBool (draw + k) then
        some (Config.freeByte (draw + k))
      else Memory.read b.cells (bufferAddress b.rxBase k) :=
  lookupKey_receiveBytes_same _ (rxSize_le b lat) hk

/-- With status 0 each of the bytes of the transfer holds the byte drawn for it. -/
theorem read_received_delivered {b : BufferSpace} {lat : Latch} {status : Word} (draw : Nat) {k : Nat}
    (hok : status = 0) (hreq : lat.rxReq = true) (hk : k < lat.length.toNat) :
    Memory.read (b.received lat status draw).cells (bufferAddress b.rxBase k) =
      some (Config.freeByte (draw + k)) := by
  rw [read_received_inside status draw (lt_rxSize_iff.mpr ⟨hreq, .inl hk⟩), if_pos]
  simp [deliveredBytes, hok, hk]

/-- A completion ends the wait (R109). -/
theorem exec_pStatus_of_wait {s : State} (status : Word) (hd : s.ctl.dseq = .wait) :
    exec (.pStatus status) s = .next (s.endWait status).quiet :=
  ((execPStatus_cases status s).resolve_left (by simp [hd])).2

/-- The end of the wait leaves in BUF what the primitive has made of the rx buffer (R44). -/
theorem endWait_buf (s : State) (status : Word) :
    (s.endWait status).buf = s.buf.received s.ctl.lat status (s.draws + 2) := rfl

/-- Settles O59: outside the rx buffer nothing is written; a delivered byte is drawn, and every other byte of the
buffer is drawn or as before. -/
theorem completionFillsTheReceiveBuffer : Obligations.CompletionFillsTheReceiveBuffer := by
  refine ⟨bufferAddress_eq_mod, fun status s hd => ⟨_, exec_pStatus_of_wait status hd, rfl, rfl, ?_, ?_, ?_⟩⟩ <;>
    rw [State.quiet_buf, endWait_buf]
  · intro a hout
    refine read_received_outside status _ fun k hk ha => hout ?_
    obtain ⟨hreq, hroom⟩ := lt_rxSize_iff.mp hk
    exact ⟨hreq, k, hroom, ha⟩
  · exact fun hok hreq k hk => ⟨_, read_received_delivered _ hok hreq hk⟩
  · rintro a ⟨hreq, k, hroom, rfl⟩
    rw [read_received_inside status _ (lt_rxSize_iff.mpr ⟨hreq, hroom⟩)]
    split
    · exact .inr ⟨_, rfl⟩
    · exact .inl rfl

end Sys2Proof.Machine
end

section
/-! PROOFS of the family 30_encoding.md, commands and events as words: a word is its fields, so that the encoder's
words are read back (O1), decoded words are encoded again (O2) and a mask is a condition on fields (O3).
-/

namespace Sys2Proof.Machine

/-! ## The fields of a word (R60) -/

theorem getLsbD_eq_of_extractLsb'_eq {v w : Word} {p len i : Nat} (h : v.extractLsb' p len = w.extractLsb' p len)
    (hlow : p ≤ i) (hhigh : i < p + len) : v.getLsbD i = w.getLsbD i := by
  have hbit := congrArg (BitVec.getLsbD · (i - p)) h
  simpa [show i - p < len by omega, show p + (i - p) = i by omega] using hbit

/-- A CMD word is its OPC, SLOT, PIN, RSV and the four bits below them. -/
theorem eq_iff_fields {v w : Word} : v = w ↔
    v.extractLsb' 24 8 = w.extractLsb' 24 8 ∧ v.extractLsb' 16 8 = w.extractLsb' 16 8 ∧
      v.extractLsb' 8 8 = w.extractLsb' 8 8 ∧ v.extractLsb' 4 4 = w.extractLsb' 4 4 ∧
      v[3] = w[3] ∧ v[2] = w[2] ∧ v[1] = w[1] ∧ v[0] = w[0] := by
  refine ⟨by rintro rfl; simp, fun ⟨hopc, hslot, hpin, hrsv, h3, h2, h1, h0⟩ =>
    BitVec.eq_of_getLsbD_eq fun i hi => ?_⟩
  obtain h | h | h | h | h : 24 ≤ i ∨ 16 ≤ i ∧ i < 24 ∨ 8 ≤ i ∧ i < 16 ∨ 4 ≤ i ∧ i < 8 ∨ i < 4 := by omega
  · exact getLsbD_eq_of_extractLsb'_eq hopc h hi
  · exact getLsbD_eq_of_extractLsb'_eq hslot h.1 h.2
  · exact getLsbD_eq_of_extractLsb'_eq hpin h.1 h.2
  · exact getLsbD_eq_of_extractLsb'_eq hrsv h.1 h.2
  · interval_cases i <;> assumption

/-- A mask looks at a whole 8-bit field (the literal is `simp`'s form of `BitVec.allOnes 8`). -/
@[simp] theorem byte_and_ones (b : BitVec 8) : b &&& 255#8 = b := BitVec.and_allOnes

/-- A mask looks at the whole of RSV (the literal is `simp`'s form of `BitVec.allOnes 4`). -/
@[simp] theorem nibble_and_ones (b : BitVec 4) : b &&& 15#4 = b := BitVec.and_allOnes

theorem cmdSlot_eq_zero_iff {w : Word} : cmdSlot w = 0 ↔ w.extractLsb' 16 8 = 0#8 := BitVec.toNat_inj (y := 0#8)

theorem cmdPin_eq_zero_iff {w : Word} : cmdPin w = 0 ↔ w.extractLsb' 8 8 = 0#8 := BitVec.toNat_inj (y := 0#8)

@[simp] theorem fitsField_cmdSlot (w : Word) : fitsField (cmdSlot w) = true := decide_eq_true (BitVec.isLt _)

@[simp] theorem fitsField_cmdPin (w : Word) : fitsField (cmdPin w) = true := decide_eq_true (BitVec.isLt _)

@[simp] theorem ofNat_cmdSlot (w : Word) : BitVec.ofNat 8 (cmdSlot w) = w.extractLsb' 16 8 :=
  (BitVec.ofNat_toNat ..).trans (BitVec.setWidth_eq _)

@[simp] theorem ofNat_cmdPin (w : Word) : BitVec.ofNat 8 (cmdPin w) = w.extractLsb' 8 8 :=
  (BitVec.ofNat_toNat ..).trans (BitVec.setWidth_eq _)

theorem toNat_ofNat_of_fitsField {n : Nat} (hn : fitsField n = true) : (BitVec.ofNat 8 n).toNat = n :=
  (BitVec.toNat_ofNat n 8).trans (Nat.mod_eq_of_lt (of_decide_eq_true hn))

theorem cmdSlot_eq {w : Word} {n : Nat} (hn : fitsField n = true) (h : w.extractLsb' 16 8 = BitVec.ofNat 8 n) :
    cmdSlot w = n :=
  (congrArg BitVec.toNat h).trans (toNat_ofNat_of_fitsField hn)

theorem cmdPin_eq {w : Word} {n : Nat} (hn : fitsField n = true) (h : w.extractLsb' 8 8 = BitVec.ofNat 8 n) :
    cmdPin w = n :=
  (congrArg BitVec.toNat h).trans (toNat_ofNat_of_fitsField hn)

/-! ## The fields of a word with one index or one bit -/

/-- An index of `k` bits has no bit at or above the position it ends at. -/
theorem toNat_fieldAt_lt {n k pos p : Nat} (hn : n < 2 ^ k) (hp : pos + k ≤ p) : (fieldAt n pos).toNat < 2 ^ p :=
  calc (fieldAt n pos).toNat
      = n * 2 ^ pos % 2 ^ 32 := by simp [fieldAt, Nat.shiftLeft_eq]
    _ ≤ n * 2 ^ pos := Nat.mod_le ..
    _ < 2 ^ k * 2 ^ pos := Nat.mul_lt_mul_of_pos_right hn (Nat.two_pow_pos pos)
    _ = 2 ^ (pos + k) := by rw [← Nat.pow_add, Nat.add_comm]
    _ ≤ 2 ^ p := Nat.pow_le_pow_right (by decide) hp

theorem extractLsb'_eq_zero_of_lt {w : Word} {p len : Nat} (h : w.toNat < 2 ^ p) : w.extractLsb' p len = 0#len := by
  apply BitVec.eq_of_toNat_eq
  simp [BitVec.extractLsb'_toNat, Nat.shiftRight_eq_div_pow, Nat.div_eq_of_lt h]

@[simp] theorem extractLsb'_fieldAt_above {n pos p len : Nat} (hn : fitsField n = true) (hp : pos + 8 ≤ p) :
    (fieldAt n pos).extractLsb' p len = 0#len :=
  extractLsb'_eq_zero_of_lt (toNat_fieldAt_lt (k := 8) (of_decide_eq_true hn) hp)

@[simp] theorem extractLsb'_fieldAt_below (n : Nat) {pos p len : Nat} (hp : p + len ≤ pos) :
    (fieldAt n pos).extractLsb' p len = 0#len := by
  ext j hj
  simp [fieldAt, show p + j < pos by omega]

/-- An index is read back from where it stands. -/
@[simp] theorem extractLsb'_fieldAt_same (n : Nat) {pos : Nat} (hp : pos + 8 ≤ 32) :
    (fieldAt n pos).extractLsb' pos 8 = BitVec.ofNat 8 n := by
  refine BitVec.eq_of_getLsbD_eq fun j hj => ?_
  simp only [BitVec.getLsbD_extractLsb', getLsbD_fieldAt (show pos + j < 32 by omega), BitVec.getLsbD_ofNat]
  simp

@[simp] theorem getElem_fieldAt_below (n : Nat) {pos i : Nat} (hi : i < 32) (h : i < pos) :
    (fieldAt n pos)[i] = false := by
  simp [fieldAt, h]

@[simp] theorem extractLsb'_bitAt_above (b : Bool) {pos p len : Nat} (hp : pos < p) :
    (bitAt b pos).extractLsb' p len = 0#len :=
  extractLsb'_eq_zero_of_lt (toNat_fieldAt_lt (k := 1) b.toNat_lt hp)

@[simp] theorem getElem_bitAt (b : Bool) (pos : Nat) {i : Nat} (hi : i < 32) :
    (bitAt b pos)[i] = (b && decide (i = pos)) :=
  getLsbD_bitAt hi

/-! ## Decoding what was encoded (R60 to R64, R68, R75) -/

theorem cmdSrc_or_bitAt (v : Word) (src : ClockSource) (hv : v[0] = false) :
    cmdSrc (v ||| bitAt src.bit 0) = src := by
  simp [cmdSrc, cmdBit0, hv]

/-- Row `k` of the opcode map decodes a word that matches it. -/
theorem decodeInput_command (k : Fin 10) {c : CommandWords} {i : Instr}
    (hrow : c.cmd &&& (commandRows.get k).mask = (commandRows.get k).value)
    (hbuild : (commandRows.get k).build c = i) : decodeInput (.command c) = some i :=
  (decodeCommand_of_row (List.get_mem ..) hrow).trans (congrArg some hbuild)

/-- Row `k` of the event map decodes a word that matches it. -/
theorem decodeInput_event (k : Fin 9) {e : EventWords} {i : Instr}
    (hrow : e.evt &&& (eventRows.get k).mask = (eventRows.get k).value)
    (hbuild : (eventRows.get k).build e = i) : decodeInput (.event e) = some i :=
  (decodeEvent_of_row (List.get_mem ..) hrow).trans (congrArg some hbuild)

/-- Settles O1: the encoded word matches the instruction's own row (`RowMatch`), and each operand is read back from
the field it was put in, the other operands having no bit there. -/
theorem decodeOfEncodeIsTheInstruction : Obligations.DecodeOfEncodeIsTheInstruction := by
  intro i hwf
  cases i with
  | calcDelays src =>
    exact decodeInput_command 0 (Laws.RowMatch.calcDelays _ _ _ _ hwf)
      (congrArg (Instr.calcDelays · _ _ _) (cmdSrc_or_bitAt _ src rfl))
  | busInit src =>
    exact decodeInput_command 1 (Laws.RowMatch.busInit _ _ _ _ hwf)
      (congrArg (Instr.busInit · _ _ _) (cmdSrc_or_bitAt _ src rfl))
  | bind =>
    obtain ⟨hslot, hpin⟩ := Bool.and_eq_true_iff.mp hwf
    refine decodeInput_command 2 (Laws.RowMatch.bind _ _ _ _ _ _ hwf) ?_
    refine (Instr.bind.injEq ..).mpr ⟨cmdSlot_eq hslot ?_, cmdPin_eq hpin ?_, ?_, ?_, cmdSrc_or_bitAt _ _ ?_, rfl⟩
    all_goals simp [cmdPol, cmdPha, BitVec.extractLsb'_or, hpin]
  | setDiv =>
    refine decodeInput_command 3 (Laws.RowMatch.setDiv _ _ _ hwf) ?_
    refine (Instr.setDiv.injEq ..).mpr ⟨cmdSlot_eq hwf ?_, cmdSrc_or_bitAt _ _ ?_, rfl⟩
    all_goals simp [BitVec.extractLsb'_or]
  | unbind =>
    refine decodeInput_command 4 (Laws.RowMatch.unbind _ hwf) (congrArg Instr.unbind (cmdSlot_eq hwf ?_))
    simp [BitVec.extractLsb'_or]
  | dispatch =>
    refine decodeInput_command 5 (Laws.RowMatch.dispatch _ _ _ _ _ _ hwf) ?_
    refine (Instr.dispatch.injEq ..).mpr ⟨cmdSlot_eq hwf ?_, ?_, rfl, rfl, rfl, rfl⟩
    all_goals simp [cmdRxReq, BitVec.extractLsb'_or]
  | pInit =>
    refine decodeInput_command 6 (Laws.RowMatch.pInit _ _ _ _ hwf) (congrArg (Instr.pInit · _ _ _) ?_)
    simp [cmdBit0]
  | publish => exact decodeInput_command 7 (Laws.RowMatch.publish _ _ hwf) rfl
  | tWrite _ byte =>
    exact decodeInput_command 8 (Laws.RowMatch.tWrite _ _ hwf) (congrArg _ (argByte_setWidth byte))
  | tRead => exact decodeInput_command 9 (Laws.RowMatch.tRead _ hwf) rfl
  | eCs =>
    refine decodeInput_event 0 (Laws.RowMatch.eCs _ hwf) (congrArg Instr.eCs ?_)
    simp
  | eData => exact decodeInput_event 1 (Laws.RowMatch.eData hwf) rfl
  | eDecodeW => exact decodeInput_event 2 (Laws.RowMatch.eDecodeW hwf) rfl
  | eDecodeR => exact decodeInput_event 3 (Laws.RowMatch.eDecodeR hwf) rfl
  | eDecodeRW => exact decodeInput_event 4 (Laws.RowMatch.eDecodeRW hwf) rfl
  | eDone => exact decodeInput_event 5 (Laws.RowMatch.eDone _ hwf) rfl
  | eRegWr _ byte =>
    exact decodeInput_event 6 (Laws.RowMatch.eRegWr _ _ hwf) (congrArg _ (argByte_setWidth byte))
  | eRegRd => exact decodeInput_event 7 (Laws.RowMatch.eRegRd _ hwf) rfl
  | pStatus => exact decodeInput_event 8 (Laws.RowMatch.pStatus _ hwf) rfl

/-! ## Encoding what was decoded: each operand is the word under the mask of its field -/

theorem fieldAt_cmdSlot (w : Word) : fieldAt (cmdSlot w) 16 = w &&& 0x00FF0000 := by
  simp [eq_iff_fields, BitVec.extractLsb'_and]

theorem fieldAt_cmdPin (w : Word) : fieldAt (cmdPin w) 8 = w &&& 0x0000FF00 := by
  simp [eq_iff_fields, BitVec.extractLsb'_and]

theorem bitAt_getLsbD (w : Word) {k : Nat} (hk : k < 32) : bitAt (w.getLsbD k) k = w &&& BitVec.twoPow 32 k := by
  ext i hi
  by_cases h : i = k <;> simp [h, hk, BitVec.getElem_twoPow]

theorem bit_cmdSrc (w : Word) : (cmdSrc w).bit = w.getLsbD 0 := ClockSource.bit_ofBit _

/-- A word that matches a row is the row's value and its own bits under the complement of the mask. -/
theorem or_and_eq_self {w m v n : Word} (h : w &&& m = v) (hmask : m ||| n = BitVec.allOnes 32) :
    v ||| w &&& n = w := by
  rw [← h, ← BitVec.and_or_distrib_left, hmask, BitVec.and_allOnes]

theorem and_ones_eq_iff {w v : Word} : w &&& 0xFFFFFFFF = v ↔ w = v := by
  rw [show w &&& 0xFFFFFFFF = w from BitVec.and_allOnes]

/-- What a row of the opcode map makes of a word has that word as its own.  The first seven rows have operands in
CMD, which fill the bits their masks leave open; the masks of the last three leave none. -/
theorem commandRow_encodes {r : CommandRow} (hr : r ∈ commandRows) {c : CommandWords}
    (h : c.cmd &&& r.mask = r.value) : (r.build c).wf = true ∧ (encode (r.build c)).firstWord = c.cmd := by
  simp only [commandRows, List.mem_cons, List.not_mem_nil, or_false] at hr
  obtain rfl | rfl | rfl | rfl | rfl | rfl | rfl | rfl | rfl | rfl := hr
  all_goals
    refine ⟨by simp [Instr.wf], ?_⟩
    simp only [encode, commandInput, Input.firstWord, fieldAt_cmdSlot, fieldAt_cmdPin, bit_cmdSrc, cmdBit0, cmdPha,
      cmdPol, cmdRxReq, bitAt_getLsbD, Nat.reduceLT, BitVec.or_assoc, ← BitVec.and_or_distrib_left]
  iterate 7 exact or_and_eq_self h (by decide)
  all_goals exact (and_ones_eq_iff.mp h).symm

/-- What a row of the event map makes of a word has that word as its own; E_CS alone has an operand in EVT. -/
theorem eventRow_encodes {r : EventRow} (hr : r ∈ eventRows) {e : EventWords} (h : e.evt &&& r.mask = r.value) :
    (r.build e).wf = true ∧ (encode (r.build e)).firstWord = e.evt := by
  simp only [eventRows, List.mem_cons, List.not_mem_nil, or_false] at hr
  obtain rfl | rfl | rfl | rfl | rfl | rfl | rfl | rfl | rfl := hr
  case inl =>
    refine ⟨rfl, ?_⟩
    simp only [encode, eventInput, Input.firstWord, bitAt_getLsbD, Nat.reduceLT]
    exact or_and_eq_self h (by decide)
  all_goals exact ⟨rfl, (and_ones_eq_iff.mp h).symm⟩

/-- Settles O2, on each port by the row that decodes the word. -/
theorem decodedInstructionEncodesToItsWord : Obligations.DecodedInstructionEncodesToItsWord := by
  intro inp i h
  cases inp with
  | command c =>
    obtain ⟨r, hr, hrow, rfl⟩ := decodeCommand_some h
    exact commandRow_encodes hr hrow
  | event e =>
    obtain ⟨r, hr, hrow, rfl⟩ := decodeEvent_some h
    exact eventRow_encodes hr hrow

/-! ## Legal CMD words (R61, R62) -/

theorem decodeCommand_isSome {c : CommandWords} :
    (decodeCommand c).isSome = true ↔ ∃ r ∈ commandRows, c.cmd &&& r.mask = r.value := by
  rw [← Option.ne_none_iff_isSome, ne_eq, decodeCommand_none]
  simp

/-- Settles O3: a word matches a row when it agrees with the row's value in every field the mask looks at.
`LegalFields` groups the rows by the fields they use, which moves PINIT from the seventh place to the third. -/
theorem commandWordsAreLegalByTheirFields : Obligations.CommandWordsAreLegalByTheirFields := by
  intro c
  have pinitThird {a b c d e f g h : Prop} :
      (a ∨ b ∨ c ∨ d ∨ e ∨ f ∨ g ∨ h) ↔ (a ∨ b ∨ g ∨ c ∨ d ∨ e ∨ f ∨ h) := by tauto
  rw [decodeCommand_isSome]
  simp only [commandRows, List.exists_mem_cons_iff, LegalFields, or_and_right, or_assoc]
  rw [pinitThird]
  simp [eq_iff_fields, BitVec.extractLsb'_and, noRsvRxReq, noPolPha, cmdOpc, cmdSlot_eq_zero_iff,
    cmdPin_eq_zero_iff, cmdRsv, cmdRxReq, cmdPol, cmdPha, cmdBit0, and_assoc]

end Sys2Proof.Machine
end

section
/-! PROOFS of the family 30_encoding.md, the ports: which EVT words are events (O4), what a reserved one does (O11),
what is answered (O47), and words written out (O5).
-/

namespace Sys2Proof.Machine

/-! ## EVT words (R67, R68, R69) -/

/-- The EVT words of the event map (R68), E_CS having two. -/
def eventWords : List Word :=
  [0x90000000, 0x90000001, 0xA0000000, 0x30000001, 0x30000002, 0x30000003, 0x40000000, 0x50000000, 0x60000000,
    0x80000000]

/-- The mask of E_CS leaves one bit open. -/
theorem and_eq_edge_iff {w : Word} : w &&& 0xFFFFFFFE = 0x90000000 ↔ w = 0x90000000 ∨ w = 0x90000001 := by
  constructor
  · intro h
    have hw : 0x90000000 ||| bitAt (w.getLsbD 0) 0 = w := by
      rw [bitAt_getLsbD w (by decide)]
      exact or_and_eq_self h (by decide)
    cases hb : w.getLsbD 0
    · exact .inl (by rw [← hw, hb]; decide)
    · exact .inr (by rw [← hw, hb]; decide)
  · rintro (rfl | rfl) <;> decide

theorem decodeEvent_isSome {e : EventWords} :
    (decodeEvent e).isSome = true ↔ ∃ r ∈ eventRows, e.evt &&& r.mask = r.value := by
  rw [← Option.ne_none_iff_isSome, ne_eq, decodeEvent_none]
  simp

theorem decodeEvent_isSome_iff_mem {e : EventWords} : (decodeEvent e).isSome = true ↔ e.evt ∈ eventWords := by
  rw [decodeEvent_isSome]
  simp only [eventRows, eventWords, List.exists_mem_cons_iff, and_ones_eq_iff, and_eq_edge_iff, or_assoc]
  simp

/-- Every EVT word of the event map differs from every row of the opcode map in a bit the row's mask looks at. -/
theorem commandRow_ne_eventWord : ∀ w ∈ eventWords, ∀ r ∈ commandRows, w &&& r.mask ≠ r.value := by
  simp [eventWords, commandRows]

/-- Settles O4, by the masks of the event map, and by those of the opcode map on the ten words. -/
theorem eventWordsAreTheTenListed : Obligations.EventWordsAreTheTenListed :=
  ⟨fun _ => decodeEvent_isSome_iff_mem, fun _ _ he heq =>
    decodeCommand_none.mpr (commandRow_ne_eventWord _ (heq ▸ decodeEvent_isSome_iff_mem.mp he))⟩

/-- An encoding R69 lists as reserved. -/
def ReservedWord (w : Word) : Prop :=
  w.extractLsb' 28 4 ∈ ([0x0, 0x1, 0x2, 0x7, 0xB, 0xC, 0xD, 0xE, 0xF] : List (BitVec 4)) ∨
    w = 0x30000000 ∨ w.extractLsb' 2 26 ≠ 0 ∨ (w.extractLsb' 28 4 = 0x9 ∧ w.getLsbD 1 = true)

theorem eventWord_not_reserved : ∀ w ∈ eventWords, ¬ReservedWord w := by
  simp [eventWords, ReservedWord]

theorem decodeEvent_none_of_reserved {e : EventWords} (h : ReservedWord e.evt) : decodeEvent e = none := by
  by_contra hne
  exact eventWord_not_reserved e.evt (decodeEvent_isSome_iff_mem.mp (Option.ne_none_iff_isSome.mp hne)) h

/-- Settles O11: a reserved word is none of the ten, and an undecodable event that is handed over is flagged. -/
theorem reservedEventSetsEvtIllegalOnly : Obligations.ReservedEventSetsEvtIllegalOnly := by
  have flagged (s r : State) (e : EventWords) (hrst : s.now.rst = false) (ha : s.arbitrate = some (.event e, r))
      (hd : decodeEvent e = none) : step s = .next r.flagIllegal.quiet := by
    rw [step_eq_handle hrst ha, State.handle, show decodeInput (.event e) = none from hd]
    rfl
  exact ⟨fun _ => decodeEvent_none_of_reserved, flagged,
    fun s e hrst hp => flagged s _ e hrst (arbitrate_single hp)⟩

/-! ## Responses (R66, R69) -/

/-- Settles O47: a refusal is a command's, an accepted command answers OK, and an event's effect is quiet or a
reply. -/
theorem commandsAreAnsweredAndEventsAreNot : Obligations.CommandsAreAnsweredAndEventsAreNot := by
  intro i s t h
  cases exec_effect h with
  | refused hc => exact iff_of_true ⟨_, rfl⟩ hc
  | pInit | publish | tWrite | tRead => exact iff_of_true ⟨_, rfl⟩ (.inr rfl)
  | classified _ hi =>
    obtain ⟨rfl, -⟩ | ⟨rfl, -⟩ | ⟨rfl, -⟩ := hi <;> exact iff_of_false nofun nofun
  | decodeDropped hi =>
    obtain rfl | rfl | rfl := hi <;> exact iff_of_false nofun nofun
  | csIgnored | csStart | csMalformed | csEnd | data | doneDropped | doneOk | doneError | regWrUnexpected | regWrRange
  | regWr | regRdUnexpected | regRdRange | regRd | statusDropped | status => exact iff_of_false nofun nofun
  | _ => exact iff_of_true ⟨_, rfl⟩ (.inl rfl) -- the commands of the controller role

/-! ## Words written out (V6) -/

/-- Settles O5, by decoding each word. -/
theorem writtenOutWordsDecode : Obligations.WrittenOutWordsDecode := by
  unfold Obligations.WrittenOutWordsDecode
  decide

end Sys2Proof.Machine
end

section
/-! PROOFS of the family 30_encoding.md, WRITE (O60): one induction over the bytes gives the state a WRITE leaves in
closed form, the bytes below the end of the table in SHD, and the rest is read off it.
-/

namespace Sys2Proof.Machine

/-! ## Cells written one after the other -/

/-- A bank with bytes written to the cells from `base` on. -/
def storeCells : Nat → List Byte → Memory → Memory
  | _, [], m => m
  | base, b :: bs, m => storeCells (base + 1) bs (setKey m base b)

theorem read_storeCells_outside {base a : Nat} {bytes : List Byte} {m : Memory}
    (h : ¬(base ≤ a ∧ a < base + bytes.length)) : Memory.read (storeCells base bytes m) a = Memory.read m a := by
  induction bytes generalizing base m with
  | nil => rfl
  | cons b bs ih =>
    rw [List.length_cons] at h
    exact (ih (by omega)).trans (lookupKey_setKey_other m b (by omega))

theorem read_storeCells_inside {base k : Nat} {bytes : List Byte} {m : Memory} {b : Byte} (h : bytes[k]? = some b) :
    Memory.read (storeCells base bytes m) (base + k) = some b := by
  induction bytes generalizing base k m with
  | nil => simp at h
  | cons c cs ih =>
    cases k with
    | zero =>
      obtain rfl : c = b := by simpa using h
      exact (read_storeCells_outside fun hin => Nat.not_succ_le_self base hin.1).trans
        (lookupKey_setKey_same m base c)
    | succ k =>
      rw [← Nat.succ_add_eq_add_succ]
      exact ih (by simpa using h)

/-- The state with bytes written to the cells of SHD from `address` on. -/
def State.writeCells (s : State) (address : Nat) (bytes : List Byte) : State :=
  s.setPer { s.per with shd := storeCells address bytes s.per.shd }

/-! ## One TWRITE (R150) -/

theorem exec_tWrite_unconfigured {s : State} (address : Word) (b : Byte) (hv : s.per.pcfg.valid = false) :
    exec (.tWrite address b) s = .next (s.refuse .badState) := by
  simp [exec, execTWrite, State.accept, firstError, State.checkConfigured, hv]

theorem exec_tWrite_outside {s : State} {address : Word} (b : Byte) (hv : s.per.pcfg.valid = true)
    (ha : s.per.pcfg.tableLength.toNat ≤ address.toNat) :
    exec (.tWrite address b) s = .next (s.refuse .invalidRange) := by
  simp [exec, execTWrite, State.accept, firstError, State.checkConfigured, State.checkAddress, State.inRange, hv, ha]

theorem exec_tWrite_inside {s : State} {address : Word} (b : Byte) (hv : s.per.pcfg.valid = true)
    (ha : address.toNat < s.per.pcfg.tableLength.toNat) :
    exec (.tWrite address b) s = .next ((s.tblWrite address b).respond .ok 0 0) := by
  simp [exec, execTWrite, State.accept, firstError, State.checkConfigured, State.checkAddress, State.inRange, hv, ha]

/-! ## WRITE (R76) -/

/-- WRITE stops at a byte that is refused. -/
theorem execWrite_cons_of_refused {s : State} {address : Word} {b : Byte} {e : ErrorCode} (bs : List Byte)
    (he : e ≠ .ok) (h : exec (.tWrite address b) s = .next (s.refuse e)) :
    execWrite address (b :: bs) s = .next (s.refuse e) := by
  rw [execWrite, pseudoWrite, execScript_cons h, if_pos (by simp [State.wasRefused, he])]

/-- WRITE goes on after a byte inside the table. -/
theorem execWrite_cons_inside {s : State} {address : Word} {b : Byte} (bs : List Byte)
    (hv : s.per.pcfg.valid = true) (ha : address.toNat < s.per.pcfg.tableLength.toNat) :
    execWrite address (b :: bs) s = execWrite (address + 1) bs ((s.tblWrite address b).respond .ok 0 0) := by
  rw [execWrite, pseudoWrite, execScript_cons (exec_tWrite_inside b hv ha),
    if_neg (by simp [State.wasRefused]), execWrite]

/-- An address inside a table is not the last of its width, so the one after it does not wrap. -/
theorem toNat_add_one_of_lt {a n : Word} (h : a.toNat < n.toNat) : (a + 1).toNat = a.toNat + 1 := by
  rw [BitVec.toNat_add_of_lt (Nat.lt_of_le_of_lt h n.isLt)]
  rfl

theorem respond_eq_self {s : State} {e : ErrorCode} {a b : Word} (h : Responds s e a b) : s.respond e a b = s := by
  rw [State.respond, ← h]

/-- What a WRITE leaves: the bytes below the end of the table are written, and the last response tells whether that
is all of them.  The induction ends with no byte left, after a byte that was answered OK: `hstart` admits it. -/
theorem execWrite_configured {s : State} {address : Word} {bytes : List Byte} (hv : s.per.pcfg.valid = true)
    (hstart : bytes ≠ [] ∨ Responds s .ok 0 0 ∧ address.toNat ≤ s.per.pcfg.tableLength.toNat) :
    execWrite address bytes s = .next
      ((s.writeCells address.toNat (bytes.take (s.per.pcfg.tableLength.toNat - address.toNat))).respond
        (if address.toNat + bytes.length ≤ s.per.pcfg.tableLength.toNat then .ok else .invalidRange) 0 0) := by
  induction bytes generalizing address s with
  | nil =>
    obtain ⟨hok, ha⟩ := hstart.resolve_left (· rfl)
    rw [List.take_nil, if_pos (by simpa using ha)]
    exact congrArg Host.Outcome.next (respond_eq_self hok).symm
  | cons b bs ih =>
    obtain ha | ha := Nat.lt_or_ge address.toNat s.per.pcfg.tableLength.toNat
    · have hnext := toNat_add_one_of_lt ha
      have hend : address.toNat + (b :: bs).length = address.toNat + 1 + bs.length :=
        (Nat.succ_add_eq_add_succ ..).symm
      have hroom : s.per.pcfg.tableLength.toNat - address.toNat =
          s.per.pcfg.tableLength.toNat - (address.toNat + 1) + 1 := by omega
      rw [execWrite_cons_inside bs hv ha,
        ih (s := (s.tblWrite address b).respond .ok 0 0) hv (.inr ⟨rfl, hnext.trans_le ha⟩), hnext, hroom, hend,
        List.take_succ_cons]
      rfl
    · rw [execWrite_cons_of_refused bs (by decide) (exec_tWrite_outside b hv ha), Nat.sub_eq_zero_of_le ha,
        if_neg (by simp; omega)]
      rfl

/-- Settles O60: unconfigured, the first byte is refused; configured, the state left is the one of
`execWrite_configured`, and each clause is a reading of it. -/
theorem pseudoWriteStopsAtTheFirstRefusal : Obligations.PseudoWriteStopsAtTheFirstRefusal := by
  intro address bytes s hne
  constructor
  · intro hv
    obtain ⟨b, bs, rfl⟩ := List.exists_cons_of_ne_nil hne
    exact execWrite_cons_of_refused bs (by decide) (exec_tWrite_unconfigured address b hv)
  · intro hv
    refine ⟨_, execWrite_configured hv (.inl hne), fun k b hk hin => ?_, fun a hout => ?_, fun hfits => ?_,
      fun hover => ?_, fun _ => rfl, ?keepsEngine, ?keepsController, ⟨rfl, rfl⟩, ?keepsSurroundings⟩
    · exact read_storeCells_inside ((List.getElem?_take_of_lt (by omega)).trans hk)
    · exact read_storeCells_outside (by rw [List.length_take]; omega)
    · rw [if_pos hfits]; rfl
    · rw [if_neg (by omega)]; rfl
    case keepsEngine => exact ⟨rfl, ⟨rfl, rfl, rfl, rfl⟩, rfl, rfl⟩
    case keepsController => exact ⟨rfl, fun _ => rfl, ⟨rfl, rfl, rfl⟩, rfl⟩
    case keepsSurroundings => exact ⟨⟨rfl, rfl, rfl⟩, rfl, rfl, fun _ => rfl⟩

end Sys2Proof.Machine
end

section
/-! PROOFS of the family 40_calibrator.md: the threshold table (O16) and its outputs (O19), the ratio (O17, O18), and
CALC (O20).
-/

namespace Sys2Proof.Machine

/-! ## The threshold table (R82) -/

section Bracket
variable {t : CalTable} {low high ratio : Nat}

theorem bracket_eq_near (h : ratio < low) : bracket t low high ratio = t.near := if_pos h

theorem bracket_eq_middle (hlow : low ≤ ratio) (hhigh : ratio < high) : bracket t low high ratio = t.middle :=
  (if_neg (Nat.not_lt.mpr hlow)).trans (if_pos hhigh)

theorem bracket_eq_far (hlow : low ≤ ratio) (hhigh : high ≤ ratio) : bracket t low high ratio = t.far :=
  (if_neg (Nat.not_lt.mpr hlow)).trans (if_neg (Nat.not_lt.mpr hhigh))

end Bracket

/-- A ratio lies below both thresholds, between them, or above both. -/
theorem bracket_cases (t : CalTable) (low high ratio : Nat) :
    bracket t low high ratio = t.near ∨ bracket t low high ratio = t.middle ∨ bracket t low high ratio = t.far := by
  obtain hlow | hlow := Nat.lt_or_ge ratio low
  · exact .inl (bracket_eq_near hlow)
  · obtain hhigh | hhigh := Nat.lt_or_ge ratio high
    · exact .inr (.inl (bracket_eq_middle hlow hhigh))
    · exact .inr (.inr (bracket_eq_far hlow hhigh))

theorem lookupDelays_cases (src : ClockSource) (ratio : Nat) :
    lookupDelays src ratio = calTable.near ∨ lookupDelays src ratio = calTable.middle ∨
      lookupDelays src ratio = calTable.far := by
  cases src <;> exact bracket_cases calTable _ _ ratio

/-- Settles O16: both sources' rows are the three brackets of their two thresholds; at or above the higher one the
ratio has passed the lower one too. -/
theorem thresholdTable : Obligations.ThresholdTable := fun _ =>
  ⟨bracket_eq_near, bracket_eq_middle, fun h => bracket_eq_far (Nat.le_trans (by decide) h) h,
    bracket_eq_near, bracket_eq_middle, fun h => bracket_eq_far (Nat.le_trans (by decide) h) h⟩

/-- Settles O19: the offset of 16 is that of each of the table's three pairs. -/
theorem delaysDifferBySixteen : Obligations.DelaysDifferBySixteen := by
  intro src divider coreRaw refRaw d
  have hd : d = calTable.near ∨ d = calTable.middle ∨ d = calTable.far := lookupDelays_cases src _
  refine ⟨hd, ?_⟩
  obtain h | h | h := hd <;> rw [h] <;> rfl

/-! ## The ratio (R81, R83, R85) -/

/-- The quotient rounded down, by the two multiples of the divisor that enclose the dividend. -/
theorem div_succ_eq_iff (n k q : Nat) : n / (k + 1) = q ↔ q * (k + 1) ≤ n ∧ n < (q + 1) * (k + 1) := by
  rw [Nat.div_eq_iff (Nat.add_one_pos k), Nat.add_one_mul q]
  omega

/-- Settles O17: the ratio of either source is a quotient of naturals by `core_div`, which is a successor. -/
theorem ratioIsTheExactQuotient : Obligations.RatioIsTheExactQuotient := fun _ _ _ _ =>
  ⟨rfl, div_succ_eq_iff _ _, div_succ_eq_iff _ _⟩

/-- Core-derived, `core_div` is a factor of the dividend and cancels. -/
theorem calRatio_core (divider coreRaw refRaw : Word) : calRatio .core divider coreRaw refRaw = divider.toNat + 1 :=
  Nat.mul_div_cancel_left _ (Nat.succ_pos _)

theorem computeDelays_core (divider coreRaw refRaw : Word) :
    computeDelays .core divider coreRaw refRaw = lookupDelays .core (divider.toNat + 1) :=
  congrArg (lookupDelays .core) (calRatio_core divider coreRaw refRaw)

/-- Settles O18: the core-derived rows of the threshold table are read at `divider + 1`. -/
theorem coreDerivedRatioIsTheDivider : Obligations.CoreDerivedRatioIsTheDivider := by
  intro divider coreRaw refRaw
  obtain ⟨-, -, -, hnear, hmiddle, hfar⟩ := thresholdTable (divider.toNat + 1)
  rw [computeDelays_core]
  exact ⟨calRatio_core divider coreRaw refRaw, fun h => hnear (by omega),
    fun hlow hhigh => hmiddle (by omega) (by omega), fun h => hfar (by omega), rfl, Nat.div_eq_of_lt⟩

/-! ## The Busy check of a controller-role command (R166) -/

theorem accept_checkBusy_of_wait {s : State} (hd : s.ctl.dseq = .wait) (checks : List Check) (done : State) :
    s.accept (s.checkBusy :: checks) done = s.refuse .busy := by
  simp [State.accept, State.checkBusy, firstError_cons, hd]

theorem accept_checkBusy_of_idle {s : State} (hd : s.ctl.dseq = .idle) (checks : List Check) (done : State) :
    s.accept (s.checkBusy :: checks) done = s.accept checks done := by
  simp [State.accept, State.checkBusy, firstError_cons, hd]

/-- A response drives an output port and writes no state (R170). -/
theorem keepsAll_respond (s : State) (e : ErrorCode) (a b : Word) : KeepsAll s (s.respond e a b) :=
  ⟨⟨⟨rfl, rfl, rfl⟩, rfl, rfl, fun _ => rfl⟩, ⟨rfl, fun _ => rfl, ⟨rfl, rfl, rfl⟩, rfl⟩,
    ⟨⟨rfl, ⟨rfl, rfl, rfl, rfl⟩, rfl, rfl⟩, fun _ => rfl, fun _ => rfl⟩, rfl, rfl⟩

/-! ## CALC (R80) -/

/-- Settles O20: the Busy check is CALC's only one, and past it CALC only responds. -/
theorem calcRespondsWithTheDelays : Obligations.CalcRespondsWithTheDelays := fun _ _ _ _ s =>
  ⟨fun hwait => congrArg Host.Outcome.next (accept_checkBusy_of_wait hwait [] _),
    fun hidle =>
      ⟨_, congrArg Host.Outcome.next (accept_checkBusy_of_idle hidle [] _), keepsAll_respond s .ok _ _, rfl⟩⟩

end Sys2Proof.Machine
end

section
/-! PROOFS of the family 41_profile.md: the tables of BIND (O23, O24), then BUSINIT, BIND, SETDIV and UNBIND (O21, O22,
O25, O26), each by its checks in order and by the one frame of a command that writes a single slot.
-/

namespace Sys2Proof.Machine

/-! ## The tables of BIND (R92, R93) -/

/-- Settles O23, row by row. -/
theorem patternTable : Obligations.PatternTable :=
  ⟨⟨rfl, rfl⟩, rfl, ⟨rfl, rfl⟩, rfl⟩

theorem csMask_eq_twoPow (deassert : Word) (pin : Nat) :
    csMask deassert pin = if deassert = 0xFFFFFFFF then ~~~BitVec.twoPow 32 pin else BitVec.twoPow 32 pin := rfl

/-- Settles O24: the mask is the power of two of the pin, or its complement. -/
theorem chipSelectMaskBits : Obligations.ChipSelectMaskBits := by
  intro deassert pin bit hpin hbit
  have hpow : (BitVec.twoPow 32 pin).getLsbD bit = decide (bit = pin) := by
    simp [BitVec.getLsbD_twoPow, hpin, eq_comm]
  refine ⟨fun hones => ?_, fun hones => ?_⟩ <;> rw [csMask_eq_twoPow]
  · rw [if_pos hones, BitVec.getLsbD_not, hpow]
    simp [hbit]
  · rw [if_neg hones, hpow]

/-! ## Checks in order (R174) -/

theorem accept_cons_of_failed (s : State) {c : Check} (hc : c.1 = true) (checks : List Check) (done : State) :
    s.accept (c :: checks) done = s.refuse c.2 := by
  rw [State.accept, firstError_cons, if_pos hc]

theorem accept_cons_of_passed (s : State) {c : Check} (hc : c.1 = false) (checks : List Check) (done : State) :
    s.accept (c :: checks) done = s.accept checks done := by
  rw [State.accept, firstError_cons, if_neg (by simp [hc]), State.accept]

section SlotChecks
variable {s : State} {slot : Nat} (hd : s.ctl.dseq = .idle)
include hd

theorem accept_of_no_bus (hv : s.ctl.bh.valid = false) (checks : List Check) (done : State) :
    s.accept (s.checkBusy :: s.checkBus :: checks) done = s.refuse .badState := by
  rw [accept_checkBusy_of_idle hd, accept_cons_of_failed s (by simp [State.checkBus, hv])]
  rfl

variable (hv : s.ctl.bh.valid = true)
include hv

theorem accept_checkBus_of_bus (checks : List Check) (done : State) :
    s.accept (s.checkBusy :: s.checkBus :: checks) done = s.accept checks done := by
  rw [accept_checkBusy_of_idle hd, accept_cons_of_passed s (by simp [State.checkBus, hv])]

theorem accept_of_slot_outside (hs : s.params.nProf ≤ slot) (checks : List Check) (done : State) :
    s.accept (s.checkBusy :: s.checkBus :: s.checkSlot slot :: checks) done = s.refuse .invalidSlot := by
  rw [accept_checkBus_of_bus hd hv, accept_cons_of_failed s (decide_eq_true hs)]
  rfl

variable (hs : slot < s.params.nProf)
include hs

/-- Past the three checks that all slot commands share, those of its own are left. -/
theorem accept_of_slot_inside (checks : List Check) (done : State) :
    s.accept (s.checkBusy :: s.checkBus :: s.checkSlot slot :: checks) done = s.accept checks done := by
  rw [accept_checkBus_of_bus hd hv, accept_cons_of_passed s (decide_eq_false (Nat.not_le.mpr hs))]

theorem acceptBound_of_free (hfree : s.profile? slot = none) (body : Profile → State) :
    s.acceptBound slot body = s.refuse .invalidSlot := by
  rw [State.acceptBound, accept_of_slot_inside hd hv hs, hfree]
  rfl

theorem acceptBound_of_bound {p : Profile} (hp : s.profile? slot = some p) (body : Profile → State) :
    s.acceptBound slot body = body p := by
  rw [State.acceptBound, accept_of_slot_inside hd hv hs, hp]
  rfl

end SlotChecks

/-! ## Bound slots (R15) -/

theorem bound_eq_true_iff {s : State} {slot : Nat} : s.bound slot = true ↔ ∃ p, s.profile? slot = some p :=
  Option.isSome_iff_exists

theorem bound_eq_false_iff {s : State} {slot : Nat} : s.bound slot = false ↔ s.profile? slot = none :=
  Option.isSome_eq_false_iff.trans Option.isNone_iff_eq_none

theorem profile?_setProfile_same (s : State) (slot : Nat) (p : Profile) :
    (s.setProfile slot p).profile? slot = some p := (profile?_setProfile s slot slot p).trans (if_pos rfl)

theorem bound_freeProfile_same (s : State) (slot : Nat) : (s.freeProfile slot).bound slot = false :=
  bound_eq_false_iff.mpr ((profile?_freeProfile s slot slot).trans (if_pos rfl))

/-! ## The frame of a command that writes one slot (R96) -/

/-- Every state element but one Device Profile slot. -/
def KeepsAllButSlot (slot : Nat) (s t : State) : Prop :=
  KeepsOtherSlots slot s t ∧ KeepsBus s t ∧ KeepsTransfer s t ∧ KeepsPeripheral s t ∧ KeepsShared s t ∧
    KeepsSurroundings s t

theorem keepsAllButSlot_of_slots {s : State} {slot : Nat} {dp : Sparse Profile}
    (h : ∀ i, i ≠ slot → lookupKey dp i = s.profile? i) (e : ErrorCode) (a b : Word) :
    KeepsAllButSlot slot s ((s.setCtl { s.ctl with dp := dp }).respond e a b) := by
  obtain ⟨hsurroundings, ⟨-, -, htransfer⟩, hperipheral, hshared⟩ := keepsAll_respond s e a b
  exact ⟨h, rfl, htransfer, hperipheral, hshared, hsurroundings⟩

theorem keepsAllButSlot_setProfile (s : State) (slot : Nat) (p : Profile) (e : ErrorCode) (a b : Word) :
    KeepsAllButSlot slot s ((s.setProfile slot p).respond e a b) :=
  keepsAllButSlot_of_slots (fun i hi => (profile?_setProfile s slot i p).trans (if_neg hi)) e a b

theorem keepsAllButSlot_freeProfile (s : State) (slot : Nat) (e : ErrorCode) (a b : Word) :
    KeepsAllButSlot slot s ((s.freeProfile slot).respond e a b) :=
  keepsAllButSlot_of_slots (fun i hi => (profile?_freeProfile s slot i).trans (if_neg hi)) e a b

/-! ## The commands -/

/-- Settles O21: past the Busy check, the second check fails exactly where the handle exists. -/
theorem busInitCreatesTheHandleOnce : Obligations.BusInitCreatesTheHandleOnce := by
  intro src divider idle deassert s
  refine ⟨fun hwait => congrArg Host.Outcome.next (accept_checkBusy_of_wait hwait _ _),
    fun hd hv => congrArg Host.Outcome.next ?_, fun hd hv => ?_⟩
  · exact (accept_checkBusy_of_idle hd _ _).trans (accept_cons_of_failed s hv [] _)
  · have hpassed (done : State) : s.accept [s.checkBusy, (s.ctl.bh.valid, .badState)] done = done :=
      (accept_checkBusy_of_idle hd _ done).trans (accept_cons_of_passed s hv [] done)
    obtain ⟨hsurroundings, ⟨-, -, hsequencing, -⟩, hperipheral, hshared⟩ := keepsAll_respond s .ok 0 0
    exact ⟨_, congrArg Host.Outcome.next (hpassed _), rfl, rfl, rfl, fun _ => rfl, hsequencing, hperipheral, hshared,
      hsurroundings⟩

/-- A BIND that passes its five checks fills the slot (R91). -/
theorem exec_bind_of_free {s : State} {slot pin : Nat} (pol pha : Bool) (src : ClockSource) (divider : Word)
    (hd : s.ctl.dseq = .idle) (hv : s.ctl.bh.valid = true) (hs : slot < s.params.nProf) (hfree : s.bound slot = false)
    (hpin : pin < s.params.csWidth) :
    exec (.bind slot pin pol pha src divider) s =
      .next ((s.setProfile slot (s.newProfile pin pol pha src divider)).respond .ok
        (s.sampledDelays src divider).delay (s.sampledDelays src divider).delayShort) :=
  congrArg Host.Outcome.next <| (accept_of_slot_inside hd hv hs _ _).trans <|
    (accept_cons_of_passed s hfree _ _).trans (accept_cons_of_passed s (decide_eq_false (Nat.not_le.mpr hpin)) [] _)

/-- Settles O22: the five checks in order, and then the slot holds the new profile. -/
theorem bindConstructsTheProfile : Obligations.BindConstructsTheProfile := by
  intro slot pin pol pha src divider s
  refine ⟨fun hwait => congrArg Host.Outcome.next (accept_checkBusy_of_wait hwait _ _),
    fun hd hv => congrArg Host.Outcome.next (accept_of_no_bus hd hv _ _),
    fun hd hv hs => congrArg Host.Outcome.next (accept_of_slot_outside hd hv hs _ _),
    fun hd hv hs hbound => congrArg Host.Outcome.next ?bound,
    fun hd hv hs hfree hpin => congrArg Host.Outcome.next ?pin,
    fun hd hv hs hfree hpin => ⟨_, exec_bind_of_free pol pha src divider hd hv hs hfree hpin,
      profile?_setProfile_same s slot _, rfl, keepsAllButSlot_setProfile s slot _ _ _ _⟩⟩
  case bound => exact (accept_of_slot_inside hd hv hs _ _).trans (accept_cons_of_failed s hbound _ _)
  case pin =>
    exact (accept_of_slot_inside hd hv hs _ _).trans <|
      (accept_cons_of_passed s hfree _ _).trans (accept_cons_of_failed s (decide_eq_true hpin) [] _)

/-- Settles O25: the checks of a command on a bound slot, and then the slot holds the retimed profile. -/
theorem setDivRetimesTheProfile : Obligations.SetDivRetimesTheProfile := fun slot _ _ s =>
  ⟨fun hwait => congrArg Host.Outcome.next (accept_checkBusy_of_wait hwait _ _),
    fun hd hv => congrArg Host.Outcome.next (accept_of_no_bus hd hv _ _),
    fun hd hv hs => congrArg Host.Outcome.next (accept_of_slot_outside hd hv hs _ _),
    fun hd hv hs hfree => congrArg Host.Outcome.next (acceptBound_of_free hd hv hs hfree _),
    fun _ hd hv hs hp => ⟨_, congrArg Host.Outcome.next (acceptBound_of_bound hd hv hs hp _),
      profile?_setProfile_same s slot _, rfl, keepsAllButSlot_setProfile s slot _ _ _ _⟩⟩

/-- Settles O26: the checks of a command on a bound slot, and then the slot is free. -/
theorem unbindFreesTheSlot : Obligations.UnbindFreesTheSlot := by
  refine fun slot s => ⟨fun hwait => congrArg Host.Outcome.next (accept_checkBusy_of_wait hwait _ _),
    fun hd hv => congrArg Host.Outcome.next (accept_of_no_bus hd hv _ _),
    fun hd hv hs => congrArg Host.Outcome.next (accept_of_slot_outside hd hv hs _ _),
    fun hd hv hs hfree => congrArg Host.Outcome.next (acceptBound_of_free hd hv hs (bound_eq_false_iff.mp hfree) _),
    fun hd hv hs hbound => ?_⟩
  obtain ⟨p, hp⟩ := bound_eq_true_iff.mp hbound
  exact ⟨_, congrArg Host.Outcome.next (acceptBound_of_bound hd hv hs hp _), bound_freeProfile_same s slot, rfl,
    keepsAllButSlot_freeProfile s slot _ _ _⟩

end Sys2Proof.Machine
end

section
/-! PROOFS of the family 42_dispatch.md: DISPATCH by its checks and its one effect (O27) and by the reconfigurations it
emits (O28), P_STATUS (O29), and the wait between them (O13).
-/

namespace Sys2Proof.Machine

/-! ## The frame of the controller role's steps (R184) -/

theorem keepsPeripheral_of_per_eq {s t : State} (h : t.per = s.per) : KeepsPeripheral s t := by
  simp [KeepsPeripheral, KeepsEngine, KeepsConfiguration, KeepsSession, KeepsCounters, KeepsBanks, KeepsCur,
    KeepsShd, h]

/-! ## DISPATCH (R100 to R108) -/

/-- Past the checks of a command on a bound slot, a DISPATCH has one of its own left, and then its effect (R101). -/
theorem exec_dispatch_of_bound {s : State} {slot : Nat} {p : Profile} (hd : s.ctl.dseq = .idle)
    (hv : s.ctl.bh.valid = true) (hs : slot < s.params.nProf) (hp : s.profile? slot = some p) (rxReq : Bool)
    (length txBase rxBase rxCapacity : Word) :
    exec (.dispatch slot rxReq length txBase rxBase rxCapacity) s =
      .next (s.accept [checkCapacity rxReq length rxCapacity]
        (dispatched s p rxReq length txBase rxBase rxCapacity)) := by
  refine congrArg Host.Outcome.next ((acceptBound_of_bound hd hv hs hp _).trans ?_)
  simp [dispatched, reconcile_eq, State.driveSelect, State.invoke, State.emit, State.setCtl, State.setBuf,
    State.beginWait, State.respond, primitiveArgs]

/-- The actions of an accepted DISPATCH as R102 to R106 list them, one step after the other. -/
theorem dispatched_act (s : State) (p : Profile) (rxReq : Bool) (length txBase rxBase rxCapacity : Word) :
    (dispatched s p rxReq length txBase rxBase rxCapacity).act =
      s.act ++ reconcileActions p s.ctl.bh ++ [.flush, .cs p.csMask] ++
        [invocation (primitiveArgs p s.ctl.bh.csDeassertPattern rxReq length txBase rxBase)] := by
  simp [dispatched]

theorem singleton_invocation (a : PrimitiveArgs) :
    [invocation a] = if a.length.toNat < 5 then [.short a] else [.burst a] :=
  apply_ite (fun action => [action]) _ _ _

/-- Settles O27: the checks in order, and then the state `dispatched`, whose actions are grouped by step. -/
theorem dispatchEmitsItsStepsInOrder : Obligations.DispatchEmitsItsStepsInOrder := by
  intro slot rxReq length txBase rxBase rxCapacity s i b
  refine ⟨fun hwait => congrArg Host.Outcome.next (accept_checkBusy_of_wait hwait _ _),
    fun hd hv => congrArg Host.Outcome.next (accept_of_no_bus hd hv _ _),
    fun hd hv hs => congrArg Host.Outcome.next (accept_of_slot_outside hd hv hs _ _),
    fun hd hv hs hfree => congrArg Host.Outcome.next (acceptBound_of_free hd hv hs hfree _),
    fun p hd hv hs hp hreq hroom => (exec_dispatch_of_bound hd hv hs hp ..).trans ?refused,
    fun p hd hv hs hp hroom => ⟨dispatched s p rxReq length txBase rxBase rxCapacity,
      (exec_dispatch_of_bound hd hv hs hp ..).trans ?accepted, ?actions, ?handle, rfl, rfl, rfl, rfl, rfl, rfl,
      fun _ => rfl, keepsPeripheral_of_per_eq rfl, ⟨rfl, rfl, rfl⟩, rfl, rfl, fun _ => rfl⟩⟩
  case refused =>
    exact congrArg Host.Outcome.next (accept_cons_of_failed s (by simp [checkCapacity, hreq, hroom]) [] _)
  case accepted =>
    have hpassed : (checkCapacity rxReq length rxCapacity).1 = false := by
      obtain hreq | hroom := hroom
      · simp [checkCapacity, hreq]
      · simp [checkCapacity, Nat.not_lt.mpr hroom]
    exact congrArg Host.Outcome.next (accept_cons_of_passed s hpassed [] _)
  case actions =>
    simp only [dispatched_act, singleton_invocation, reconcileActions, primitiveArgs, List.append_assoc, b]
  case handle => simpa [dispatched, b] using hv

/-! ## The reconfigurations of a DISPATCH (R110) -/

/-- Flush, chip-select and the primitive reconfigure nothing. -/
theorem filter_transferActions (mask : Word) (a : PrimitiveArgs) :
    [.flush, .cs mask, invocation a].filter reconfigures = [] := by
  unfold invocation
  split <;> rfl

/-- Reconciliation emits reconfigurations and nothing else. -/
theorem filter_reconcileActions (p : Profile) (b : BusHandle) :
    (reconcileActions p b).filter reconfigures = reconcileActions p b := by
  refine List.filter_eq_self.mpr fun a ha => ?_
  simp only [reconcileActions, List.mem_append, List.mem_ite_nil_left, List.mem_cons, List.not_mem_nil,
    or_false] at ha
  obtain (⟨-, rfl⟩ | ⟨-, rfl⟩) | ⟨-, rfl | rfl | rfl⟩ := ha <;> rfl

/-- Of the actions of a DISPATCH, reconciliation alone reconfigures. -/
theorem dispatched_reconfigurations (s : State) (p : Profile) (rxReq : Bool)
    (length txBase rxBase rxCapacity : Word) :
    ∃ new, (dispatched s p rxReq length txBase rxBase rxCapacity).act = s.act ++ new ∧
      new.filter reconfigures = reconcileActions p s.ctl.bh := by
  refine ⟨_, List.append_assoc .., ?_⟩
  rw [List.filter_append, filter_reconcileActions, filter_transferActions, List.append_nil]

/-- A DISPATCH that is answered OK has had its effect, with the profile of its slot. -/
theorem eq_dispatched_of_responds_ok {s t : State} {slot : Nat} {p : Profile} {rxReq : Bool}
    {length txBase rxBase rxCapacity : Word}
    (h : exec (.dispatch slot rxReq length txBase rxBase rxCapacity) s = .next t) (hok : Responds t .ok 0 0)
    (hp : s.profile? slot = some p) :
    t = dispatched s p rxReq length txBase rxBase rxCapacity := by
  cases exec_effect h with
  | refused _ he => cases hok; exact absurd rfl he
  | dispatch q _ _ _ hq =>
    obtain rfl : q = p := Option.some.inj (hq.symm.trans hp)
    rfl
  | classified _ hi => simp at hi
  | decodeDropped hi => simp at hi

/-- Settles O28: the first DISPATCH of B reconciles a Bus Handle that differs from it in the divider alone; the second
meets the handle the first has left, since P_STATUS keeps the handle and the slots. -/
theorem reconciliationIsIdempotent : Obligations.ReconciliationIsIdempotent := by
  intro s t u v a b slotB rx rx' len tx rxb cap len' tx' rxb' cap' status hsrc hdiv hidle hb hsrc' hidle' hdiv'
    ht htok hu hv hvok
  obtain rfl := eq_dispatched_of_responds_ok ht htok hb
  cases (exec_pStatus_of_wait status rfl).symm.trans hu
  obtain rfl := eq_dispatched_of_responds_ok hv hvok hb
  refine ⟨?first, ?second⟩
  case first =>
    have hone : reconcileActions b s.ctl.bh = [.div b.divider] := by
      simp [reconcileActions, hsrc, hdiv, hidle, hsrc', hidle', hdiv']
    exact hone ▸ dispatched_reconfigurations s b rx len tx rxb cap
  case second =>
    have hnone : reconcileActions b ((dispatched s b rx len tx rxb cap).endWait status).quiet.ctl.bh = [] := by
      simp [reconcileActions, endWait_eq, dispatched]
    exact hnone ▸ dispatched_reconfigurations _ b rx' len' tx' rxb' cap'

/-! ## P_STATUS (R109, R163) -/

/-- With no transfer in flight a completion is dropped (R109). -/
theorem exec_pStatus_of_idle {s : State} (status : Word) (hd : s.ctl.dseq = .idle) :
    exec (.pStatus status) s = .next s.flagUnexpected.quiet :=
  ((execPStatus_cases status s).resolve_right (by simp [hd])).2

/-- Settles O29: the state `endWait` field by field, and the dropped completion. -/
theorem statusEndsTheTransfer : Obligations.StatusEndsTheTransfer := by
  refine fun status s => ⟨fun hidle => ⟨_, exec_pStatus_of_idle status hidle, rfl, rfl, ?dropped⟩,
    fun hwait => ⟨_, exec_pStatus_of_wait status hwait, fun hok => ⟨if_pos hok, if_pos hok⟩,
      fun herr => ⟨if_neg herr, if_neg herr⟩, rfl, BitVec.toNat_add _ _, rfl, rfl, ?ended⟩⟩
  case dropped =>
    exact ⟨⟨rfl, fun _ => rfl, ⟨rfl, rfl, rfl⟩, rfl⟩, keepsPeripheral_of_per_eq rfl,
      ⟨rfl, rfl, rfl⟩, rfl, rfl, fun _ => rfl⟩
  case ended =>
    exact ⟨rfl, fun _ => rfl, keepsPeripheral_of_per_eq rfl, ⟨rfl, rfl⟩, ⟨rfl, rfl, rfl⟩, rfl, rfl⟩

/-! ## The wait (R108, R197) -/

/-- No effect but that of a P_STATUS ends a wait. -/
theorem Effect.keeps_wait {s t : State} {i : Instr} (he : Effect s i t) (hwait : s.ctl.dseq = .wait)
    (hi : ¬IsStatus i) : t.ctl.dseq = .wait := by
  cases he with
  | dispatch => rfl
  | status => exact absurd ⟨_, rfl⟩ hi
  | _ => exact hwait

/-- Settles O13: a wait of the block, an effect of an input that is no P_STATUS, and an undecodable input all leave a
transfer in flight. -/
theorem onlyStatusOrResetEndsTheWait : Obligations.OnlyStatusOrResetEndsTheWait := by
  intro s t h hrst hwait hinput
  obtain ⟨hreset, -⟩ | ⟨-, -, hstep⟩ | ⟨inp, r, -, ha, hstep⟩ := step_cases s
  · simp [hrst] at hreset
  · cases hstep.symm.trans h
    obtain ⟨now, later, stored, hawait⟩ := await_eq s
    rw [hawait]
    exact hwait
  · have hr : r.ctl.dseq = .wait := by
      obtain ⟨rest, k, -, rfl⟩ := arbitrate_some ha
      exact hwait
    obtain ⟨i, hi, hstep⟩ | ⟨-, hstep⟩ := hstep
    · refine (exec_effect (hstep.symm.trans h)).keeps_wait hr ?_
      rintro ⟨status, rfl⟩
      exact hinput inp r status ha hi
    · cases hstep.symm.trans h
      cases inp <;> exact hr

end Sys2Proof.Machine
end

section
/-! PROOFS of the family 43_engine.md: the frame of the engine's steps and the writers of the two banks (O55), PINIT by
its checks (O30), E_CS by the four edges it can be (O31, O32, O33), E_DECODE and E_DONE (O34, O35), E_DATA (O36), the
unconfigured engine (O37), and the transition table read off them (O38).
-/

namespace Sys2Proof.Machine

/-! ## The banks (R134, R155) -/

/-- Only TWRITE and E_REGWR write a cell of SHD (R155 (b)). -/
theorem Effect.keepsShd {s t : State} {i : Instr} (he : Effect s i t)
    (hcommand : ∀ address byte, i ≠ .tWrite address byte) (hevent : ∀ address byte, i ≠ .eRegWr address byte) :
    KeepsShd s t := by
  cases he with
  | tWrite => exact absurd rfl (hcommand _ _)
  | regWr => exact absurd rfl (hevent _ _)
  | _ => exact fun _ => rfl

/-- Settles O55: an instruction that is no PUBLISH publishes no cell of CUR, and SHD has its two writers. -/
theorem banksChangeOnlyByTheirWriters : Obligations.BanksChangeOnlyByTheirWriters := by
  refine fun i s t h => ⟨fun hi a => (exec_effect h).curCell_kept ?_, (exec_effect h).keepsShd⟩
  rintro ⟨address, length, heq, -⟩
  exact hi address length heq

/-! ## The frame of the peripheral role's steps (R184) -/

theorem keepsController_of_ctl_eq {s t : State} (h : t.ctl = s.ctl) : KeepsController s t := by
  simp [KeepsController, KeepsBus, KeepsSlots, KeepsTransfer, KeepsSequencing, State.profile?, h]

theorem keepsSurroundings_of_eq {s t : State} (hports : KeepsPorts s t) (hbuf : t.buf = s.buf) :
    KeepsSurroundings s t := by
  simp [KeepsSurroundings, KeepsBuffers, hports, hbuf]

/-- What no step of the engine touches: the controller role and everything outside the block. -/
theorem keepsOutsideEngine {s t : State} (hctl : t.ctl = s.ctl) (hports : KeepsPorts s t) (hbuf : t.buf = s.buf) :
    KeepsController s t ∧ KeepsSurroundings s t :=
  ⟨keepsController_of_ctl_eq hctl, keepsSurroundings_of_eq hports hbuf⟩

theorem keepsAll_quiet (s : State) : KeepsAll s s.quiet :=
  ⟨keepsSurroundings_of_eq ⟨rfl, rfl, rfl⟩ rfl, keepsController_of_ctl_eq rfl, keepsPeripheral_of_per_eq rfl, rfl, rfl⟩

/-- EVT_UNEXPECTED is set and no other state element changes: what becomes of a dropped event (R30). -/
def OnlySetsUnexpected (s t : State) : Prop :=
  t.flags = { s.flags with evtUnexpected := true } ∧ t.act = s.act ∧ KeepsPeripheral s t ∧ KeepsController s t ∧
    KeepsSurroundings s t

theorem onlySetsUnexpected_flagUnexpected (s : State) : OnlySetsUnexpected s s.flagUnexpected.quiet :=
  ⟨rfl, rfl, keepsPeripheral_of_per_eq rfl, keepsOutsideEngine rfl ⟨rfl, rfl, rfl⟩ rfl⟩

/-! ## PINIT (R120) -/

theorem accept_checkIdle_of_open {s : State} (hs : s.per.st ≠ .idle) (checks : List Check) (done : State) :
    s.accept (s.checkIdle :: checks) done = s.refuse .badState :=
  accept_cons_of_failed s (bne_iff_ne.mpr hs) checks done

theorem accept_checkIdle_of_idle {s : State} (hs : s.per.st = .idle) (checks : List Check) (done : State) :
    s.accept (s.checkIdle :: checks) done = s.accept checks done :=
  accept_cons_of_passed s (by simp [State.checkIdle, hs]) checks done

/-- Settles O30: the two checks in order, and then the configuration is written. -/
theorem pInitConfiguresTheEngine : Obligations.PInitConfiguresTheEngine := by
  refine fun level tableLength nulls offset s =>
    ⟨fun hopen => congrArg Host.Outcome.next (accept_checkIdle_of_open hopen _ _),
      fun hidle hlong => congrArg Host.Outcome.next ?refused,
      fun hidle hfits => ⟨_, congrArg Host.Outcome.next ((accept_checkIdle_of_idle hidle _ _).trans
        (accept_cons_of_passed s (decide_eq_false (Nat.not_lt.mpr hfits)) [] _)), rfl, rfl, hidle, rfl, rfl, rfl,
        ⟨rfl, rfl⟩, ⟨fun _ => rfl, fun _ => rfl⟩, keepsController_of_ctl_eq rfl, ⟨rfl, rfl⟩,
        keepsSurroundings_of_eq ⟨rfl, rfl, rfl⟩ rfl⟩⟩
  case refused =>
    exact (accept_checkIdle_of_idle hidle _ _).trans (accept_cons_of_failed s (decide_eq_true hlong) [] _)

/-! ## E_CS, edge by edge (R122 to R128) -/

theorem exec_eCs (level : Bool) (s : State) : exec (.eCs level) s = execECs level s := rfl

theorem exec_eCs_of_unconfigured {s : State} (hv : s.per.pcfg.valid = false) (level : Bool) :
    exec (.eCs level) s = .next s.quiet := by
  simpa [exec_eCs, hv] using execECs_cases level s

section Edges
variable {s : State} {level : Bool} (hv : s.per.pcfg.valid = true)
include hv

theorem exec_eCs_asserted_of_idle (hl : level = s.per.pcfg.assertLevel) (hs : s.per.st = .idle) :
    exec (.eCs level) s = .next (s.startSession level).quiet := by
  simpa [exec_eCs, hv, ← hl, hs] using execECs_cases level s

theorem exec_eCs_asserted_of_open (hl : level = s.per.pcfg.assertLevel) (hs : s.per.st ≠ .idle) :
    exec (.eCs level) s = .next (s.malformed level).quiet := by
  simpa [exec_eCs, hv, ← hl, hs] using execECs_cases level s

theorem exec_eCs_deasserted_of_idle (hl : level ≠ s.per.pcfg.assertLevel) (hs : s.per.st = .idle) :
    exec (.eCs level) s = .next s.quiet := by
  simpa [exec_eCs, hv, hl, hs] using execECs_cases level s

theorem exec_eCs_deasserted_of_open (hl : level ≠ s.per.pcfg.assertLevel) (hs : s.per.st ≠ .idle) :
    exec (.eCs level) s = .next (s.truncateSession level).quiet := by
  simpa [exec_eCs, hv, hl, hs] using execECs_cases level s

end Edges

/-- Settles O31: the state `startSession` field by field. -/
theorem assertionStartsASession : Obligations.AssertionStartsASession := fun _ _ hv hl hs =>
  ⟨_, exec_eCs_asserted_of_idle hv hl hs, rfl, rfl, rfl, rfl, rfl, rfl, rfl, ⟨rfl, rfl⟩,
    ⟨fun _ => rfl, fun _ => rfl⟩, keepsOutsideEngine rfl ⟨rfl, rfl, rfl⟩ rfl⟩

/-- The counter stops at the greatest word (R29). -/
theorem toNat_saturatingIncrement (w : Word) : (saturatingIncrement w).toNat = min (w.toNat + 1) 0xFFFFFFFF := by
  unfold saturatingIncrement
  split
  · next hmax => simp [hmax]
  · next hroom => bv_omega

/-- Settles O32: the state `malformed` field by field, its count on naturals. -/
theorem reassertionIsMalformed : Obligations.ReassertionIsMalformed := fun level s hv hl hs =>
  ⟨_, exec_eCs_asserted_of_open hv hl hs, rfl, toNat_saturatingIncrement s.per.malformedCount,
    congrArg State.act (malformed_eq s level), rfl, rfl, rfl, rfl, rfl, rfl, rfl, ⟨fun _ => rfl, fun _ => rfl⟩,
    keepsOutsideEngine rfl ⟨rfl, rfl, rfl⟩ rfl⟩

/-- Settles O33: in Idle nothing, else the state `truncateSession` field by field. -/
theorem deassertionEndsTheSession : Obligations.DeassertionEndsTheSession := fun _ s hv hl =>
  ⟨fun hidle => ⟨_, exec_eCs_deasserted_of_idle hv hl hidle, keepsAll_quiet s, rfl⟩,
    fun hopen => ⟨_, exec_eCs_deasserted_of_open hv hl hopen, rfl, rfl, rfl, rfl, rfl, rfl, rfl, ⟨rfl, rfl⟩,
      ⟨fun _ => rfl, fun _ => rfl⟩, keepsOutsideEngine rfl ⟨rfl, rfl, rfl⟩ rfl⟩⟩

/-! ## E_DECODE (R129) -/

/-- The E_DECODE that reports a kind (R74). -/
def Kind.decode : Kind → Instr
  | .write => .eDecodeW
  | .read => .eDecodeR
  | .readWrite => .eDecodeRW

theorem exec_decode (k : Kind) (s : State) : exec k.decode s = .next (s.classify k).quiet := by
  cases k <;> rfl

theorem exec_decode_of_waiting {s : State} (hs : s.per.st = .waitingForAddress) (k : Kind) :
    exec k.decode s = .next (s.setPer { s.per with st := k.state }).quiet := by
  rw [exec_decode, ((classify_cases s k).resolve_right (by simp [hs])).2]

theorem exec_decode_of_not_waiting {s : State} (hs : s.per.st ≠ .waitingForAddress) (k : Kind) :
    exec k.decode s = .next s.flagUnexpected.quiet := by
  rw [exec_decode, ((classify_cases s k).resolve_left (by simp [hs])).2]

/-- Settles O34: each E_DECODE is that of a kind, which is either classified or dropped. -/
theorem decodeClassifiesTheTransaction : Obligations.DecodeClassifiesTheTransaction := by
  intro i data s hi
  obtain ⟨k, rfl, rfl⟩ : ∃ k : Kind, i = k.decode ∧ data = k.state := by
    obtain ⟨rfl, rfl⟩ | ⟨rfl, rfl⟩ | ⟨rfl, rfl⟩ := hi
    · exact ⟨.write, rfl, rfl⟩
    · exact ⟨.read, rfl, rfl⟩
    · exact ⟨.readWrite, rfl, rfl⟩
  exact ⟨fun hwaiting => ⟨_, exec_decode_of_waiting hwaiting k, rfl, rfl, rfl, rfl, rfl, ⟨rfl, rfl⟩,
      ⟨fun _ => rfl, fun _ => rfl⟩, keepsController_of_ctl_eq rfl, ⟨rfl, rfl⟩,
      keepsSurroundings_of_eq ⟨rfl, rfl, rfl⟩ rfl⟩,
    fun hother => ⟨_, exec_decode_of_not_waiting hother k, onlySetsUnexpected_flagUnexpected s⟩⟩

/-! ## E_DONE (R130) -/

theorem exec_eDone (code : Word) (s : State) : exec (.eDone code) s = execEDone code s := rfl

theorem exec_eDone_of_closed {s : State} (hs : s.per.session = false) (code : Word) :
    exec (.eDone code) s = .next s.flagUnexpected.quiet := by
  simpa [exec_eDone, hs] using execEDone_cases code s

/-- Settles O35: with no session the event is dropped; with one, the session closes, and a nonzero code is latched. -/
theorem doneClosesTheSession : Obligations.DoneClosesTheSession := by
  refine fun code s => ⟨fun hclosed => ⟨_, exec_eDone_of_closed hclosed code, onlySetsUnexpected_flagUnexpected s⟩,
    fun hopen => ?_⟩
  obtain ⟨hclosed, -⟩ | ⟨-, hzero, h⟩ | ⟨-, hcode, h⟩ := execEDone_cases code s
  · simp [hopen] at hclosed
  · exact ⟨_, h, rfl, rfl, rfl, absurd hzero, fun _ => ⟨rfl, rfl⟩, rfl, rfl, rfl, rfl, ⟨fun _ => rfl, fun _ => rfl⟩,
      keepsOutsideEngine rfl ⟨rfl, rfl, rfl⟩ rfl⟩
  · exact ⟨_, h, rfl, rfl, rfl, fun _ => ⟨rfl, rfl⟩, fun hzero => absurd hzero hcode, rfl, rfl, rfl, rfl,
      ⟨fun _ => rfl, fun _ => rfl⟩, keepsOutsideEngine rfl ⟨rfl, rfl, rfl⟩ rfl⟩

/-! ## E_DATA (R131) -/

/-- Settles O36: the step drives no output port and writes nothing. -/
theorem dataEdgeChangesNothing : Obligations.DataEdgeChangesNothing := fun s => ⟨_, rfl, keepsAll_quiet s, rfl⟩

/-! ## The unconfigured engine (R136) -/

/-- Settles O37: the link's edges are ignored for want of a configuration, the primitive's events dropped for want of a
session. -/
theorem unconfiguredEngineIgnoresTheLink : Obligations.UnconfiguredEngineIgnoresTheLink := by
  intro s hv hidle hclosed
  have hs : s.per.st ≠ .waitingForAddress := by simp [hidle]
  refine ⟨?edges, ?events⟩
  case edges =>
    rintro i (rfl | ⟨level, rfl⟩)
    · exact ⟨_, rfl, keepsAll_quiet s⟩
    · exact ⟨_, exec_eCs_of_unconfigured hv level, keepsAll_quiet s⟩
  case events =>
    intro i hi
    refine ⟨s.flagUnexpected.quiet, ?_, onlySetsUnexpected_flagUnexpected s⟩
    obtain rfl | rfl | rfl | ⟨code, rfl⟩ := hi
    · exact exec_decode_of_not_waiting hs .write
    · exact exec_decode_of_not_waiting hs .read
    · exact exec_decode_of_not_waiting hs .readWrite
    · exact exec_eDone_of_closed hclosed code

/-! ## The transition table (R135) -/

/-- The instruction takes the engine to a state of ST. -/
def GoesTo (s : State) (i : Instr) (q : TxState) : Prop := ∃ t, exec i s = .next t ∧ t.per.st = q

theorem goesTo_waiting_of_assertion {s : State} (hv : s.per.pcfg.valid = true) :
    GoesTo s (.eCs s.per.pcfg.assertLevel) .waitingForAddress := by
  by_cases hs : s.per.st = .idle
  · exact ⟨_, exec_eCs_asserted_of_idle hv rfl hs, rfl⟩
  · exact ⟨_, exec_eCs_asserted_of_open hv rfl hs, rfl⟩

theorem goesTo_idle_of_deassertion {s : State} (hv : s.per.pcfg.valid = true) :
    GoesTo s (.eCs !s.per.pcfg.assertLevel) .idle := by
  have hl : (!s.per.pcfg.assertLevel) ≠ s.per.pcfg.assertLevel := Bool.not_ne_self _
  by_cases hs : s.per.st = .idle
  · exact ⟨_, exec_eCs_deasserted_of_idle hv hl hs, hs⟩
  · exact ⟨_, exec_eCs_deasserted_of_open hv hl hs, rfl⟩

theorem goesTo_of_classification {s : State} (hs : s.per.st = .waitingForAddress) (k : Kind) :
    GoesTo s k.decode k.state := ⟨_, exec_decode_of_waiting hs k, rfl⟩

theorem goesTo_same_of_dropped_decode {s : State} (hs : s.per.st ≠ .waitingForAddress) (k : Kind) :
    GoesTo s k.decode s.per.st := ⟨_, exec_decode_of_not_waiting hs k, rfl⟩

/-- A completion that is dropped meets Idle already, where no session is open. -/
theorem goesTo_idle_of_completion {s : State} (hsession : s.per.session = true ↔ s.per.st ≠ .idle) (code : Word) :
    GoesTo s (.eDone code) .idle := by
  obtain ⟨hclosed, h⟩ | ⟨-, -, h⟩ | ⟨-, -, h⟩ := execEDone_cases code s
  · exact ⟨_, h, by simpa [hclosed] using hsession⟩
  · exact ⟨_, h, rfl⟩
  · exact ⟨_, h, rfl⟩

/-- Settles O38, row by row. -/
theorem transitionTable : Obligations.TransitionTable := fun _ hv hsession =>
  ⟨goesTo_waiting_of_assertion hv, goesTo_idle_of_deassertion hv,
    fun hs => ⟨goesTo_of_classification hs .write, goesTo_of_classification hs .read,
      goesTo_of_classification hs .readWrite⟩,
    fun hs => ⟨goesTo_same_of_dropped_decode hs .write, goesTo_same_of_dropped_decode hs .read,
      goesTo_same_of_dropped_decode hs .readWrite⟩,
    goesTo_idle_of_completion hsession, _, rfl, rfl⟩

end Sys2Proof.Machine
end

section
/-! PROOFS of the family 44_table.md: the commands TWRITE, TREAD and PUBLISH by their two checks (O39, O40, O41), the
events E_REGWR and E_REGRD by phase and range (O42, O43), over what a read or a write of one cell leaves alone.
-/

namespace Sys2Proof.Machine

/-! ## The checks of a table command (R167, R169) -/

theorem accept_checkConfigured_of_unconfigured {s : State} (hv : s.per.pcfg.valid = false) (checks : List Check)
    (done : State) : s.accept (s.checkConfigured :: checks) done = s.refuse .badState :=
  accept_cons_of_failed s (by simp [State.checkConfigured, hv]) checks done

theorem accept_checkConfigured_of_configured {s : State} (hv : s.per.pcfg.valid = true) (checks : List Check)
    (done : State) : s.accept (s.checkConfigured :: checks) done = s.accept checks done :=
  accept_cons_of_passed s (by simp [State.checkConfigured, hv]) checks done

theorem accept_checkAddress_of_outside {s : State} {address : Word}
    (ha : s.per.pcfg.tableLength.toNat ≤ address.toNat) (done : State) :
    s.accept [s.checkAddress address] done = s.refuse .invalidRange :=
  accept_cons_of_failed s (by simp [State.checkAddress, State.inRange, ha]) [] done

theorem accept_checkAddress_of_inside {s : State} {address : Word}
    (ha : address.toNat < s.per.pcfg.tableLength.toNat) (done : State) :
    s.accept [s.checkAddress address] done = done :=
  accept_cons_of_passed s (by simp [State.checkAddress, State.inRange, ha]) [] done

theorem accept_checkRange_of_outside {s : State} {address length : Word}
    (ha : s.per.pcfg.tableLength.toNat < address.toNat + length.toNat) (done : State) :
    s.accept [s.checkRange address length] done = s.refuse .invalidRange :=
  accept_cons_of_failed s (decide_eq_true ha) [] done

theorem accept_checkRange_of_inside {s : State} {address length : Word}
    (ha : address.toNat + length.toNat ≤ s.per.pcfg.tableLength.toNat) (done : State) :
    s.accept [s.checkRange address length] done = done :=
  accept_cons_of_passed s (decide_eq_false (Nat.not_lt.mpr ha)) [] done

/-! ## One cell (R150, R151) -/

theorem read_shd_tblWrite_same (s : State) (address : Word) (byte : Byte) :
    Memory.read (s.tblWrite address byte).per.shd address.toNat = some byte :=
  lookupKey_setKey_same s.per.shd address.toNat byte

theorem keepsOtherShd_tblWrite (s : State) (address : Word) (byte : Byte) :
    KeepsOtherShd address.toNat s (s.tblWrite address byte) :=
  fun _ hne => lookupKey_setKey_other s.per.shd byte hne

theorem tblRead_eq_of_read {s : State} {address : Word} {byte : Byte}
    (h : Memory.read s.per.cur address.toNat = some byte) : s.tblRead address = byte := by
  rw [State.tblRead, h, Option.getD_some]

/-- A write to cells of the banks changes nothing else of the block (R150, R152, R153). -/
theorem keepsAllButBanks (s : State) (cur shd : Memory) (out : PortOutput) :
    let t : State := { s with per := { s.per with cur := cur, shd := shd }, out := out }
    KeepsEngine s t ∧ KeepsController s t ∧ KeepsShared s t ∧ KeepsSurroundings s t :=
  ⟨⟨rfl, ⟨rfl, rfl, rfl, rfl⟩, rfl, rfl⟩, keepsController_of_ctl_eq rfl, ⟨rfl, rfl⟩,
    keepsSurroundings_of_eq ⟨rfl, rfl, rfl⟩ rfl⟩

/-- What a table read and a refused table access have in common: they change nothing of the block but FLAGS. -/
theorem keepsAllButFlags (s : State) (flags : Flags) (draws : Nat) (out : PortOutput) :
    let t : State := { s with flags := flags, draws := draws, out := out }
    t.act = s.act ∧ KeepsPeripheral s t ∧ KeepsController s t ∧ KeepsSurroundings s t :=
  ⟨rfl, keepsPeripheral_of_per_eq rfl, keepsOutsideEngine rfl ⟨rfl, rfl, rfl⟩ rfl⟩

/-- A table read, whatever it is answered with, changes no state element (R151, R154). -/
theorem keepsAll_afterTblRead (s : State) (address : Word) (out : PortOutput) :
    KeepsAll s { s.afterTblRead address with out := out } := by
  obtain ⟨k, hread⟩ := afterTblRead_eq s address
  rw [hread]
  obtain ⟨hact, hper, hctl, houtside⟩ := keepsAllButFlags s s.flags (s.draws + k) out
  exact ⟨houtside, hctl, hper, rfl, hact⟩

/-! ## TWRITE, TREAD and PUBLISH (R150, R151, R152) -/

/-- Settles O39: refused by the first check that fails, else one cell of SHD is written. -/
theorem tWriteWritesTheShadowCell : Obligations.TWriteWritesTheShadowCell := fun address byte s =>
  ⟨exec_tWrite_unconfigured address byte, exec_tWrite_outside byte, fun hv ha =>
    ⟨_, exec_tWrite_inside byte hv ha, read_shd_tblWrite_same s address byte, keepsOtherShd_tblWrite s address byte,
      fun _ => rfl, rfl, keepsAllButBanks s _ _ _⟩⟩

/-- Settles O40: refused by the first check that fails, else the cell of CUR is the response's RES0. -/
theorem tReadReadsTheCurrentCell : Obligations.TReadReadsTheCurrentCell := by
  refine fun address s =>
    ⟨fun hv => congrArg Host.Outcome.next (accept_checkConfigured_of_unconfigured hv _ _),
      fun hv ha => congrArg Host.Outcome.next ?outside,
      fun hv ha => ⟨_, s.tblRead address, congrArg Host.Outcome.next ?inside, keepsAll_afterTblRead s address _, rfl,
        fun _ => tblRead_eq_of_read⟩⟩
  case outside => exact (accept_checkConfigured_of_configured hv _ _).trans (accept_checkAddress_of_outside ha _)
  case inside => exact (accept_checkConfigured_of_configured hv _ _).trans (accept_checkAddress_of_inside ha _)

/-- Settles O41: refused by the first check that fails, else the cells of CUR are those `read_cur_publishRange` gives. -/
theorem publishCopiesTheRange : Obligations.PublishCopiesTheRange := by
  refine fun address length s =>
    ⟨fun hv => congrArg Host.Outcome.next (accept_checkConfigured_of_unconfigured hv _ _),
      fun hv ha => congrArg Host.Outcome.next ?outside,
      fun hv ha => ⟨(s.publishRange address length).respond .ok 0 0, congrArg Host.Outcome.next ?inside,
        fun a hlow hhigh => (read_cur_publishRange s address length a).trans (if_pos ⟨hlow, hhigh⟩),
        fun a hout => (read_cur_publishRange s address length a).trans (if_neg hout), fun _ => rfl, rfl,
        keepsAllButBanks s _ _ _⟩⟩
  case outside => exact (accept_checkConfigured_of_configured hv _ _).trans (accept_checkRange_of_outside ha _)
  case inside => exact (accept_checkConfigured_of_configured hv _ _).trans (accept_checkRange_of_inside ha _)

/-! ## E_REGWR and E_REGRD (R153, R154, R175) -/

theorem exec_eRegWr (address : Word) (byte : Byte) (s : State) :
    exec (.eRegWr address byte) s = execERegWr address byte s := rfl

theorem exec_eRegRd (address : Word) (s : State) : exec (.eRegRd address) s = execERegRd address s := rfl

section Write
variable {s : State} {address : Word} (byte : Byte)

theorem exec_eRegWr_out_of_phase (hs : ¬(s.per.st = .writing ∨ s.per.st = .readingWriting)) :
    exec (.eRegWr address byte) s = .next s.flagUnexpected.quiet := by
  simpa [exec_eRegWr, hs] using execERegWr_cases address byte s

theorem exec_eRegWr_outside (hs : s.per.st = .writing ∨ s.per.st = .readingWriting)
    (ha : s.per.pcfg.tableLength.toNat ≤ address.toNat) :
    exec (.eRegWr address byte) s = .next s.flagRange.quiet := by
  simpa [exec_eRegWr, hs, ha, Nat.not_lt.mpr ha] using execERegWr_cases address byte s

theorem exec_eRegWr_inside (hs : s.per.st = .writing ∨ s.per.st = .readingWriting)
    (ha : address.toNat < s.per.pcfg.tableLength.toNat) :
    exec (.eRegWr address byte) s = .next (s.tblWrite address byte).quiet := by
  simpa [exec_eRegWr, hs, ha, Nat.not_le.mpr ha] using execERegWr_cases address byte s

end Write

section Read
variable {s : State} {address : Word}

theorem exec_eRegRd_out_of_phase (hs : ¬(s.per.st = .reading ∨ s.per.st = .readingWriting)) :
    exec (.eRegRd address) s = .next (s.flagUnexpected.drawn.reply (Config.freeByte s.draws)) := by
  simpa [exec_eRegRd, hs] using execERegRd_cases address s

theorem exec_eRegRd_outside (hs : s.per.st = .reading ∨ s.per.st = .readingWriting)
    (ha : s.per.pcfg.tableLength.toNat ≤ address.toNat) :
    exec (.eRegRd address) s = .next (s.flagRange.drawn.reply (Config.freeByte s.draws)) := by
  simpa [exec_eRegRd, hs, ha, Nat.not_lt.mpr ha] using execERegRd_cases address s

theorem exec_eRegRd_inside (hs : s.per.st = .reading ∨ s.per.st = .readingWriting)
    (ha : address.toNat < s.per.pcfg.tableLength.toNat) :
    exec (.eRegRd address) s = .next ((s.afterTblRead address).reply (s.tblRead address)) := by
  simpa [exec_eRegRd, hs, ha, Nat.not_le.mpr ha] using execERegRd_cases address s

end Read

/-- Settles O42: out of phase or out of range one flag is set, else one cell of SHD is written. -/
theorem busWriteWritesTheShadowCell : Obligations.BusWriteWritesTheShadowCell := fun address byte s =>
  ⟨fun hs => ⟨_, exec_eRegWr_out_of_phase byte hs, onlySetsUnexpected_flagUnexpected s⟩,
    fun hs ha => ⟨_, exec_eRegWr_outside byte hs ha, rfl, keepsAllButFlags s _ s.draws .quiet⟩,
    fun hs ha => ⟨_, exec_eRegWr_inside byte hs ha, rfl, read_shd_tblWrite_same s address byte,
      keepsOtherShd_tblWrite s address byte, fun _ => rfl, keepsAllButBanks s _ _ _⟩⟩

/-- Settles O43: out of phase or out of range one flag is set and the reply is free, else it is the cell of CUR. -/
theorem busReadReadsTheCurrentCell : Obligations.BusReadReadsTheCurrentCell := fun address s =>
  ⟨fun hs => ⟨_, _, exec_eRegRd_out_of_phase hs, rfl, rfl, keepsAllButFlags s _ (s.draws + 1) _⟩,
    fun hs ha => ⟨_, _, exec_eRegRd_outside hs ha, rfl, rfl, keepsAllButFlags s _ (s.draws + 1) _⟩,
    fun hs ha => ⟨_, s.tblRead address, exec_eRegRd_inside hs ha, rfl, keepsAll_afterTblRead s address _,
      fun _ => tblRead_eq_of_read⟩⟩

end Sys2Proof.Machine
end

section
/-! PROOFS of the family 60_exceptions.md, the input ports: the order of coincident inputs (O8, O9), undecodable
commands (O10), and waiting (O12).
-/

namespace Sys2Proof.Machine

/-! ## Coincident inputs (R176) -/

theorem candidates_of_selectEdge {l : List Input} (h : ∃ e ∈ l, isSelectEdge e = true) :
    candidates l = (picks l).filter fun q => !isPrimitiveEvent q.1 :=
  if_pos (List.any_eq_true.mpr h)

/-- Settles O8: beside an edge, only what is no event of the primitive is a candidate. -/
theorem selectEdgeGoesBeforePrimitiveEvents : Obligations.SelectEdgeGoesBeforePrimitiveEvents := by
  intro s r inp ha hedge
  obtain ⟨rest, k, hmem, -⟩ := arbitrate_some ha
  rw [candidates_of_selectEdge hedge] at hmem
  simpa using List.of_mem_filter hmem

/-- An edge and one event of the primitive leave the arbiter no choice: the edge comes next. -/
theorem arbitrate_selectEdge_beside {s : State} {edge event : Input} (hedge : isSelectEdge edge = true)
    (hevent : isPrimitiveEvent event = true)
    (h : s.now.presented = [edge, event] ∨ s.now.presented = [event, edge]) :
    s.arbitrate = some (edge, s.withPresented [event]) := by
  have hone : candidates s.now.presented = [(edge, [event])] := by
    have hexists : ∃ e ∈ s.now.presented, isSelectEdge e = true := ⟨edge, by obtain h | h := h <;> simp [h], hedge⟩
    rw [candidates_of_selectEdge hexists]
    obtain h | h := h <;> simp [h, picks, hevent, isPrimitiveEvent_of_isSelectEdge hedge]
  rw [State.arbitrate, hone]

/-- Settles O9: the edge is handed over first and ends the session, and the completion, left alone, is dropped for want
of one. -/
theorem coincidentEdgeWinsOverCompletion : Obligations.CoincidentEdgeWinsOverCompletion := by
  intro s edge done level code hrst hedge hdone hp hv hl hs
  obtain ⟨runs, runsAlone⟩ := stepRunsTheDecodedInput
  have ha : s.arbitrate = some (.event edge, s.withPresented [.event done]) :=
    arbitrate_selectEdge_beside (by simp [isSelectEdge, hedge]) (by simp [isPrimitiveEvent, hdone]) hp
  let t := ((s.withPresented [.event done]).truncateSession level).quiet
  have hfirst : step s = .next t :=
    (runs s _ _ _ hrst ha hedge).trans (exec_eCs_deasserted_of_open hv hl hs)
  have hsecond : step t = .next (t.withPresented []).flagUnexpected.quiet :=
    (runsAlone t _ _ hrst rfl hdone).trans (exec_eDone_of_closed rfl code)
  exact ⟨t, _, hfirst, hsecond, rfl, rfl, rfl, rfl, rfl, rfl, rfl, rfl⟩

/-! ## Undecodable commands (R165) -/

/-- To handle an undecodable input is to refuse a command or to flag an event. -/
theorem handle_eq_undecoded {inp : Input} (hd : decodeInput inp = none) (s : State) :
    s.handle inp = .next (s.undecoded inp) := by
  simp [State.handle, hd]

/-- Settles O10: no check is made of a word that decodes to nothing, and a word presented alone is the one handed
over. -/
theorem illegalCommandIsRefusedFirst : Obligations.IllegalCommandIsRefusedFirst := by
  have refuses (s r : State) (c : CommandWords) (hrst : s.now.rst = false)
      (ha : s.arbitrate = some (.command c, r)) (hd : decodeCommand c = none) :
      step s = .next (refused r .illegalCommand) :=
    (step_eq_handle hrst ha).trans (handle_eq_undecoded (inp := .command c) hd r)
  exact ⟨refuses, fun s c hrst hp => refuses s _ c hrst (arbitrate_single hp)⟩

/-! ## Waiting (R185) -/

theorem await_of_later_nil {s : State} (h : s.later = []) : s.await = s.quiet := by
  simp [State.await, h]

theorem await_of_later_cons {s : State} {a : Arrival} {rest : List Arrival} (h : s.later = a :: rest) :
    s.await = { s.quiet with
      now := a.moment, later := rest, buf := { s.buf with cells := storeBytes a.stored s.buf.cells } } := by
  simp [State.await, h]

/-- Settles O12: the wait is quiet and goes on to the next arrival where there is one, with the arrival's bytes in the
buffer space, of which the last one stored at an address counts. -/
theorem waitingKeepsTheBlock : Obligations.WaitingKeepsTheBlock := by
  intro s hrst hp
  refine ⟨s.await, step_await hrst hp, ?_⟩
  cases hlater : s.later with
  | nil =>
    rw [await_of_later_nil hlater]
    obtain ⟨hsurroundings, hctl, hper, hshared⟩ := keepsAll_quiet s
    exact ⟨hctl, hper, hshared, rfl, rfl, rfl, rfl, rfl, fun _ => hsurroundings, nofun⟩
  | cons a rest =>
    rw [await_of_later_cons hlater]
    refine ⟨keepsController_of_ctl_eq rfl, keepsPeripheral_of_per_eq rfl, ⟨rfl, rfl⟩, rfl, rfl, rfl, rfl, rfl, nofun,
      ?_⟩
    rintro _ _ ⟨⟩
    refine ⟨rfl, rfl, fun n => lookupKey_storeBytes_other _ _, fun before x b after hstored hlast => ?_⟩
    simpa only [hstored] using lookupKey_storeBytes_last before after s.buf.cells hlast

end Sys2Proof.Machine
end

section
/-! PROOFS of the family 60_exceptions.md, refusals and roles: Busy (O45), what a refusal leaves (O46), and the two
roles' independence (O57), by what relates the outcomes of one instruction in two states.
-/

namespace Sys2Proof.Machine

/-! ## Busy (R166) -/

/-- A command none of whose checks names Busy is not answered with it. -/
theorem err_ne_busy_of_accept {s u : State} {checks : List Check} {a b : Word} {r : Response}
    (hchecks : ∀ c ∈ checks, c.2 ≠ .busy) (h : (s.accept checks (u.respond .ok a b)).out = .response r) :
    r.err ≠ .busy := by
  obtain ⟨e, he, haccept⟩ | ⟨-, haccept⟩ := accept_cases s checks (u.respond .ok a b)
  all_goals
    rw [haccept] at h
    cases h
  · exact hchecks _ (firstError_some he)
  · nofun

/-- Settles O45: Busy is the first check of each command of the controller role, and no check of the others. -/
theorem busyRefusesTheControllerRole : Obligations.BusyRefusesTheControllerRole := by
  constructor
  · intro i s hi hwait
    cases i with
    | calcDelays | busInit | bind | setDiv | unbind | dispatch =>
      exact congrArg Host.Outcome.next (accept_checkBusy_of_wait hwait _ _)
    | _ => cases hi
  · intro i s t hi h r hr
    cases i with
    | pInit =>
      cases h
      exact err_ne_busy_of_accept (by simp [State.checkIdle, State.checkTableMax]) hr
    | publish =>
      cases h
      exact err_ne_busy_of_accept (by simp [State.checkConfigured, State.checkRange]) hr
    | tWrite | tRead =>
      cases h
      exact err_ne_busy_of_accept (by simp [State.checkConfigured, State.checkAddress]) hr
    | _ => cases hi

/-! ## Refusals (R170) -/

/-- Settles O46: of the effects that respond, all but the refusal respond OK. -/
theorem refusalsArePrecise : Obligations.RefusalsArePrecise := by
  intro i s t r _ h hr herr
  cases exec_effect h with
  | refused => cases hr; rfl
  | csIgnored | csStart | csMalformed | csEnd | data | classified | decodeDropped | doneDropped | doneOk | doneError
  | regWrUnexpected | regWrRange | regWr | regRdUnexpected | regRdRange | regRd | statusDropped | status => cases hr
  | _ => -- the accepted commands
    cases hr
    exact absurd rfl herr

/-! ## What one role's step leaves alone (R184) -/

theorem Effect.keeps_per {s t : State} {i : Instr} (he : Effect s i t) (hi : controllerStep i = true) :
    t.per = s.per := by
  cases he with
  | pInit | tWrite | publish | csStart | csMalformed | csEnd | doneOk | doneError | regWr => cases hi
  | classified _ hk => obtain ⟨rfl, -⟩ | ⟨rfl, -⟩ | ⟨rfl, -⟩ := hk <;> cases hi
  | _ => rfl

theorem Effect.keeps_ctl_buf {s t : State} {i : Instr} (he : Effect s i t) (hi : controllerStep i = false) :
    t.ctl = s.ctl ∧ t.buf = s.buf := by
  cases he with
  | busInit | bind | setDiv | unbind | dispatch | status => cases hi
  | _ => exact ⟨rfl, rfl⟩

/-! ## One instruction in two states -/

/-- The next states of two meanings are related. -/
def ResultsRelated (R : State → State → Prop) (result₁ result₂ : Result) : Prop :=
  ∀ t₁ t₂, result₁ = .next t₁ → result₂ = .next t₂ → R t₁ t₂

section Related
variable {R : State → State → Prop}

theorem next_related {t₁ t₂ : State} (h : R t₁ t₂) : ResultsRelated R (.next t₁) (.next t₂) := by
  rintro _ _ ⟨⟩ ⟨⟩
  exact h

theorem accept_related {s₁ s₂ done₁ done₂ : State} {checks₁ checks₂ : List Check} (hchecks : checks₁ = checks₂)
    (hrefuse : ∀ e, R (s₁.refuse e) (s₂.refuse e)) (hdone : R done₁ done₂) :
    R (s₁.accept checks₁ done₁) (s₂.accept checks₂ done₂) := by
  subst hchecks
  unfold State.accept
  cases firstError checks₁ with
  | none => exact hdone
  | some e => exact hrefuse e

theorem acceptBound_related {s₁ s₂ : State} (hparams : s₁.params = s₂.params) (hctl : s₁.ctl = s₂.ctl) (slot : Nat)
    {body₁ body₂ : Profile → State} (hrefuse : ∀ e, R (s₁.refuse e) (s₂.refuse e))
    (hbody : ∀ p, R (body₁ p) (body₂ p)) : R (s₁.acceptBound slot body₁) (s₂.acceptBound slot body₂) := by
  refine accept_related (by simp [State.checkBusy, State.checkBus, State.checkSlot, hparams, hctl]) hrefuse ?_
  rw [State.profile?, State.profile?, hctl]
  cases lookupKey s₂.ctl.dp slot with
  | none => exact hrefuse _
  | some p => exact hbody p

theorem ite_related {c : Prop} [Decidable c] {a₁ a₂ b₁ b₂ : State} (ha : R a₁ a₂) (hb : R b₁ b₂) :
    R (if c then a₁ else b₁) (if c then a₂ else b₂) := by
  split
  · exact ha
  · exact hb

end Related

/-- Two outcomes of one step of the controller role, the buffer spaces equal where `sameBuf` holds. -/
def ControllerOutcomesAgree (sameBuf : Prop) (t₁ t₂ : State) : Prop :=
  t₁.ctl = t₂.ctl ∧ t₁.out = t₂.out ∧ (sameBuf → t₁.buf = t₂.buf)

/-- Two outcomes of one step of the peripheral role. -/
def PeripheralOutcomesAgree (t₁ t₂ : State) : Prop := t₁.per = t₂.per ∧ t₁.out = t₂.out

/-- A step of the controller role reads the parameters, the ports, the free values and its own role; what becomes of
the buffer space depends on the buffer space too. -/
theorem exec_controller_related {i : Instr} (hi : controllerStep i = true) {s₁ s₂ : State}
    (hparams : s₁.params = s₂.params) (hnow : s₁.now = s₂.now) (hdraws : s₁.draws = s₂.draws)
    (hctl : s₁.ctl = s₂.ctl) :
    ResultsRelated (ControllerOutcomesAgree (s₁.buf = s₂.buf)) (exec i s₁) (exec i s₂) := by
  obtain ⟨params, ⟨bh, dp, dseq, lat, xfer, lines⟩, per₁, flags₁, act₁, now, later₁, buf₁, draws, out₁⟩ := s₁
  obtain ⟨_, _, per₂, flags₂, act₂, _, later₂, buf₂, _, out₂⟩ := s₂
  cases hparams
  cases hnow
  cases hdraws
  cases hctl
  cases i with
  | calcDelays | busInit | bind =>
    exact next_related (accept_related rfl (fun _ => ⟨rfl, rfl, id⟩) ⟨rfl, rfl, id⟩)
  | setDiv | unbind =>
    exact next_related (acceptBound_related (by rfl) (by rfl) _ (fun _ => ⟨rfl, rfl, id⟩) fun _ => ⟨rfl, rfl, id⟩)
  | dispatch slot rxReq length txBase rxBase rxCapacity =>
    refine next_related (acceptBound_related (by rfl) (by rfl) slot (fun _ => ⟨rfl, rfl, id⟩) fun p =>
      accept_related rfl (fun _ => ⟨rfl, rfl, id⟩) ?_)
    simp only [reconcile_eq]
    exact ⟨rfl, rfl, congrArg fun b : BufferSpace => { b with rxBase := rxBase, rxCapacity := rxCapacity }⟩
  | pStatus status =>
    cases dseq with
    | idle => exact next_related ⟨rfl, rfl, id⟩
    | wait => exact next_related ⟨rfl, rfl, congrArg (BufferSpace.received · lat status (draws + 2))⟩
  | _ => cases hi

@[simp] theorem afterTblRead_per (s : State) (address : Word) : (s.afterTblRead address).per = s.per := by
  obtain ⟨k, h⟩ := afterTblRead_eq s address
  rw [h]

/-- A step of the peripheral role reads the parameters, the free values and its own role. -/
theorem exec_peripheral_related {i : Instr} (hi : controllerStep i = false) {s₁ s₂ : State}
    (hparams : s₁.params = s₂.params) (hdraws : s₁.draws = s₂.draws) (hper : s₁.per = s₂.per) :
    ResultsRelated PeripheralOutcomesAgree (exec i s₁) (exec i s₂) := by
  obtain ⟨params, ctl₁, ⟨pcfg, st, csSeen, arm, session, malformed, code, cur, shd⟩, flags₁, act₁, now₁, later₁, buf₁,
    draws, out₁⟩ := s₁
  obtain ⟨_, ctl₂, _, flags₂, act₂, now₂, later₂, buf₂, _, out₂⟩ := s₂
  cases hparams
  cases hdraws
  cases hper
  cases i with
  | pInit | publish | tWrite => exact next_related (accept_related rfl (fun _ => ⟨rfl, rfl⟩) ⟨rfl, rfl⟩)
  | tRead => exact next_related (accept_related rfl (fun _ => ⟨rfl, rfl⟩) ⟨by simp, rfl⟩)
  | eCs => cases st <;> exact next_related (ite_related ⟨rfl, rfl⟩ (ite_related ⟨rfl, rfl⟩ ⟨rfl, rfl⟩))
  | eData => exact next_related ⟨rfl, rfl⟩
  | eDecodeW | eDecodeR | eDecodeRW => cases st <;> exact next_related ⟨rfl, rfl⟩
  | eDone =>
    refine next_related (ite_related ?_ ⟨rfl, rfl⟩)
    unfold State.latchCode
    split <;> exact ⟨rfl, rfl⟩
  | eRegWr => exact next_related (ite_related ⟨rfl, rfl⟩ (ite_related ⟨rfl, rfl⟩ ⟨rfl, rfl⟩))
  | eRegRd => exact next_related (ite_related ⟨rfl, rfl⟩ (ite_related ⟨rfl, rfl⟩ ⟨by simp, rfl⟩))
  | _ => cases hi

/-- Settles O57: each role's frame, and each role's agreement of outcomes. -/
theorem rolesDoNotInterfere : Obligations.RolesDoNotInterfere := by
  intro i s₁ s₂ t₁ t₂ h₁ h₂ hparams hnow hdraws
  have he := exec_effect h₁
  constructor
  · intro hi
    exact ⟨he.keeps_per hi, fun hctl => exec_controller_related hi hparams hnow hdraws hctl _ _ h₁ h₂⟩
  · intro hi
    obtain ⟨hctl, hbuf⟩ := he.keeps_ctl_buf hi
    exact ⟨hctl, hbuf, fun hper => exec_peripheral_related hi hparams hdraws hper _ _ h₁ h₂⟩

end Sys2Proof.Machine
end
